-- ==== Sys2Proof/Word.lean ====
section
/-! DEFINITION. The word types of HTB and its bit strings (spec 00_scope.md R5, R6, R8, R9). -/

namespace Sys2Proof

/-- A symbol or a BUF byte: 8 bits (R5). -/
abbrev Byte := BitVec 8

/-- A register of the host window: 32 bits (R40). -/
abbrev Word := BitVec 32

/-- A node weight: NW_WIDTH = 40 bits (R6). -/
abbrev NodeWeight := BitVec 40

/-- A child index as NODE_LINK shows it: IDX_WIDTH = 9 bits (R6, R33). -/
abbrev NodeIndex := BitVec 9

/-- One CODE_BITS entry: 256 bits, the first bit of the code the most significant (R35, R74). -/
abbrev CodeRow := BitVec 256

/-- A bit string of R9, its first bit first. -/
abbrev Bits := List Bool

end Sys2Proof
end

