-- ==== Sys2Proof/Syntax.lean ====
section
/-! DEFINITION. The nine commands of HTB, one constructor per row of spec/opcode_table.json (R91). -/

namespace Sys2Proof

/-- A command. Only DADD has operand fields in its word: SYM and LEN, eight bits each (R90, R92). -/
inductive Instr where
  | nop
  | sreset
  | wclear
  | build
  | gen
  | dclear
  | dadd (sym len : Byte)
  | pack
  | unpack
  deriving DecidableEq, Repr

/-- Why a CMD word is illegal, the two cases of R93. -/
inductive Illegal where
  /-- R93 case 1: OPC is not in the map of R91. -/
  | reservedOpcode (opc : Byte)
  /-- R93 case 2: OPC is in the map and a field the command does not use is not 0. -/
  | unusedFieldNotZero (opc : Byte)
  deriving DecidableEq, Repr

end Sys2Proof
end

