-- ==== Sys2Proof/WellFormed.lean ====
section
/-! DEFINITION. Which commands and which CMD words are well formed (R90, R91, R93, R94). The checks
read the word as a number, apart from the decoder's own field accessors (Decode.lean). -/

namespace Sys2Proof

/-- The nine opcodes of the map of R91, as numbers. -/
def opcodeMap : List Nat := [0x00, 0x01, 0x02, 0x10, 0x11, 0x20, 0x21, 0x30, 0x31]

/-- The check of R93 case 1: OPC, bits 7:0, is in the map. -/
def opcodeListed (w : Word) : Bool := opcodeMap.contains (w.toNat % 256)

/-- The check of R93 case 2: every field the command does not use is 0. DADD (0x21) uses SYM
(bits 15:8) and LEN (bits 23:16), and no command uses RSV (bits 31:24). -/
def unusedFieldsZero (w : Word) : Bool :=
  if w.toNat % 256 = 0x21 then w.toNat / 2 ^ 24 == 0 else w.toNat / 2 ^ 8 == 0

/-- A word is legal when neither case of R93 holds. -/
def legalWord (w : Word) : Bool := opcodeListed w && unusedFieldsZero w

/-- Every command term is well formed: SYM and LEN are 8-bit by type, and R91 makes every value of
both legal to decode (LEN = 0 fails when it runs, R154). The checks with something to refuse are
those on words, above. -/
def Instr.wellFormed : Instr → Bool
  | .nop => true
  | .sreset => true
  | .wclear => true
  | .build => true
  | .gen => true
  | .dclear => true
  | .dadd _ _ => true
  | .pack => true
  | .unpack => true

end Sys2Proof
end

