-- ==== Sys2Proof/Decode.lean ====
section
/-! DEFINITION. The decoder of CMD words, total, the encoder beside it, and the opcode table's rows
(spec 30_encoding.md R90 to R95, spec/opcode_table.json). -/

namespace Sys2Proof

/-- OPC, bits 7:0 of a command word (R90). -/
def opcField (w : Word) : Byte := w.extractLsb' 0 8

/-- SYM, bits 15:8 (R90). -/
def symField (w : Word) : Byte := w.extractLsb' 8 8

/-- LEN, bits 23:16 (R90). -/
def lenField (w : Word) : Byte := w.extractLsb' 16 8

/-- RSV, bits 31:24 (R90). -/
def rsvField (w : Word) : Byte := w.extractLsb' 24 8

/-- A command with no operand field: SYM, LEN and RSV must be 0 (R90, R93). -/
def decodePlain (w : Word) (i : Instr) : Except Illegal Instr :=
  if symField w = 0#8 ∧ lenField w = 0#8 ∧ rsvField w = 0#8 then .ok i
  else .error (.unusedFieldNotZero (opcField w))

/-- DADD: SYM and LEN are operands, RSV must be 0 (R90, R92, R93). -/
def decodeDadd (w : Word) : Except Illegal Instr :=
  if rsvField w = 0#8 then .ok (.dadd (symField w) (lenField w))
  else .error (.unusedFieldNotZero (opcField w))

/-- The decoder: the opcode map of R91, every other OPC rejected by name (R93, R94). -/
def decode (w : Word) : Except Illegal Instr :=
  let opc := opcField w
  if opc = 0x00#8 then decodePlain w .nop
  else if opc = 0x01#8 then decodePlain w .sreset
  else if opc = 0x02#8 then decodePlain w .wclear
  else if opc = 0x10#8 then decodePlain w .build
  else if opc = 0x11#8 then decodePlain w .gen
  else if opc = 0x20#8 then decodePlain w .dclear
  else if opc = 0x21#8 then decodeDadd w
  else if opc = 0x30#8 then decodePlain w .pack
  else if opc = 0x31#8 then decodePlain w .unpack
  else .error (.reservedOpcode opc)

/-- Format F0: RSV, LEN, SYM and OPC from the most significant byte down (R90). -/
def formatF0 (rsv len sym opc : Byte) : Word :=
  BitVec.ofNat 32 (rsv.toNat * 2 ^ 24 + len.toNat * 2 ^ 16 + sym.toNat * 2 ^ 8 + opc.toNat)

/-- The OPC of each command (R91). -/
def opcodeOf : Instr → Byte
  | .nop => 0x00#8
  | .sreset => 0x01#8
  | .wclear => 0x02#8
  | .build => 0x10#8
  | .gen => 0x11#8
  | .dclear => 0x20#8
  | .dadd _ _ => 0x21#8
  | .pack => 0x30#8
  | .unpack => 0x31#8

/-- SYM as the command's word carries it: 0 unless the command is DADD (R90). -/
def symOf : Instr → Byte
  | .nop => 0#8
  | .sreset => 0#8
  | .wclear => 0#8
  | .build => 0#8
  | .gen => 0#8
  | .dclear => 0#8
  | .dadd sym _ => sym
  | .pack => 0#8
  | .unpack => 0#8

/-- LEN as the command's word carries it: 0 unless the command is DADD (R90). -/
def lenOf : Instr → Byte
  | .nop => 0#8
  | .sreset => 0#8
  | .wclear => 0#8
  | .build => 0#8
  | .gen => 0#8
  | .dclear => 0#8
  | .dadd _ len => len
  | .pack => 0#8
  | .unpack => 0#8

/-- The encoder: the one word of each command (R90 to R92, R95). -/
def encode (i : Instr) : Word := formatF0 0#8 (lenOf i) (symOf i) (opcodeOf i)

/-- A row of spec/opcode_table.json: a word belongs to it when its masked bits are `fixed`. -/
structure OpcodeRow where
  mnemonic : String
  fixed : Word
  mask : Word
  deriving DecidableEq, Repr

/-- The nine rows of spec/opcode_table.json, as written there. -/
def opcodeTable : List OpcodeRow :=
  [ ⟨"NOP", 0x00000000#32, 0xFFFFFFFF#32⟩, ⟨"SRESET", 0x00000001#32, 0xFFFFFFFF#32⟩,
    ⟨"WCLEAR", 0x00000002#32, 0xFFFFFFFF#32⟩, ⟨"BUILD", 0x00000010#32, 0xFFFFFFFF#32⟩,
    ⟨"GEN", 0x00000011#32, 0xFFFFFFFF#32⟩, ⟨"DCLEAR", 0x00000020#32, 0xFFFFFFFF#32⟩,
    ⟨"DADD", 0x00000021#32, 0xFF0000FF#32⟩, ⟨"PACK", 0x00000030#32, 0xFFFFFFFF#32⟩,
    ⟨"UNPACK", 0x00000031#32, 0xFFFFFFFF#32⟩ ]

/-- A word belongs to a row. -/
def OpcodeRow.covers (r : OpcodeRow) (w : Word) : Bool := w &&& r.mask == r.fixed

/-- The row of each command. -/
def rowOf : Instr → OpcodeRow
  | .nop => ⟨"NOP", 0x00000000#32, 0xFFFFFFFF#32⟩
  | .sreset => ⟨"SRESET", 0x00000001#32, 0xFFFFFFFF#32⟩
  | .wclear => ⟨"WCLEAR", 0x00000002#32, 0xFFFFFFFF#32⟩
  | .build => ⟨"BUILD", 0x00000010#32, 0xFFFFFFFF#32⟩
  | .gen => ⟨"GEN", 0x00000011#32, 0xFFFFFFFF#32⟩
  | .dclear => ⟨"DCLEAR", 0x00000020#32, 0xFFFFFFFF#32⟩
  | .dadd _ _ => ⟨"DADD", 0x00000021#32, 0xFF0000FF#32⟩
  | .pack => ⟨"PACK", 0x00000030#32, 0xFFFFFFFF#32⟩
  | .unpack => ⟨"UNPACK", 0x00000031#32, 0xFFFFFFFF#32⟩

/-- The CMD word whose low `nbits` bits are `w` and whose other bits are 0. The word is one 32-bit
bus value, so no byte order enters (R83, R95). -/
def tableWord (nbits w : Nat) : Word := BitVec.ofNat 32 (w % 2 ^ nbits)

/-- What the decoder reads from a row's word, numbered as the opcode table numbers its bits. -/
def decodeTableWord (nbits w : Nat) : Option Instr :=
  match decode (tableWord nbits w) with
  | .ok i => some i
  | .error _ => none

end Sys2Proof
end

