-- ==== Sys2Proof/Config.lean ====
section
/-! DEFINITION. What is fixed for one HTB (spec 00_scope.md R6), and the values the spec leaves open. -/

namespace Sys2Proof.Config

/-- N_SYM: the symbols, and the rows of the weight and dictionary tables (R6). -/
abbrev nSym : Nat := 256

/-- N_NODES: the entries of the node arena (R6). -/
abbrev nNodes : Nat := 511

/-- L_MAX: the longest code length in bits (R6). -/
abbrev lMax : Nat := 255

/-- CODE_WORDS: the 32-bit words that hold one code (R6). -/
abbrev codeWords : Nat := 8

/-- The ID register's constant, "HTB1" (R30). -/
abbrev idValue : Word := 0x48544231#32

/-- HTB_BASE, the host address where the 128 KiB window starts: OPEN, the platform's (R6, D15; log 2). -/
opaque htbBase : Nat

/-- The word that the n-th unspecified 32-bit read answers with: free (R234, S3; log 4). -/
opaque freeWord : Nat → Word

/-- The byte that the n-th unspecified 8-bit read answers with: free (R234, S3; log 4). -/
opaque freeByte : Nat → Byte

end Sys2Proof.Config
end

