-- ==== Sys2Proof/Machine/State.lean ====
section
/-! DEFINITION. The state of HTB (spec 10_state.md R20 to R41), the inputs it is driven by, the
reasons a step can stop, and the state after hardware reset. INVENTORY.md lists every field. -/

namespace Sys2Proof.Machine

/-- The error kinds of ERR_CODE, 1 to 7 (R200). IOError and ParseError are reserved: no command
raises them. Code 0, no error recorded, is `none` in `State.errCode`. -/
inductive ErrKind where
  | invalidInput
  | unknownSymbol
  | decodeError
  | ioError
  | parseError
  | rangeError
  | illegalCommand
  deriving DecidableEq, Repr

/-- One entry of the node arena (R33). -/
structure Node where
  /-- WEIGHT_N, 40 bits. -/
  weight : NodeWeight
  /-- LEAF. -/
  leaf : Bool
  /-- SYMBOL, the leaf's symbol, 0 in any other entry. -/
  symbol : Byte
  /-- LEFT, a child index, 0 in a leaf or empty entry. -/
  left : NodeIndex
  /-- RIGHT, a child index, 0 in a leaf or empty entry. -/
  right : NodeIndex
  deriving DecidableEq, Repr

/-- The empty arena entry: all its fields are 0 (R33). -/
def Node.empty : Node := ⟨0#40, false, 0#8, 0#9, 0#9⟩

/-- The running command: the engine's private copies, held from acceptance to completion (R39 item 1,
R112). -/
structure Engine where
  cmd : Word
  arg0 : Word
  arg1 : Word
  arg2 : Word
  stage : Vector Word 8
  deriving DecidableEq, Repr

/-- The size of a host access: 1 or 4 bytes, and the unsupported 2 (R71, R238). -/
inductive AccessSize where
  | byte
  | half
  | word
  deriving DecidableEq, Repr

/-- A host transaction; its offset has 17 bits, so it lies in the window (R71, R238). -/
inductive Transaction where
  | read (off : BitVec 17) (size : AccessSize)
  | write (off : BitVec 17) (size : AccessSize) (value : Word)
  deriving DecidableEq, Repr

/-- What the outside does to HTB next, and when the engine takes its completion step: the order of
these is the order of the atomic steps (R7, R71, R206, R230). -/
inductive Input where
  /-- A host transaction is served now. -/
  | access (t : Transaction)
  /-- The running command completes now, before the inputs that follow. -/
  | complete
  /-- RST is asserted and released (R230). -/
  | hardReset
  deriving DecidableEq, Repr

/-- Why the machine stops. Both are cases in which the spec tells a model to fault. -/
inductive Fault where
  /-- A BUF byte that nothing has written since hardware reset is read, by the host with BUSY = 0 or
  by PACK or UNPACK (R85). Safe: the hardware reads some value and goes on. -/
  | unwrittenBufByte (a : Nat)
  /-- The host writes an offset other than STATUS and CMD while BUSY = 1 (R233). Safe: the hardware
  goes on with an unspecified effect. -/
  | writeWhileBusy (off : BitVec 17)
  deriving DecidableEq, Repr

/-- Why a step has no meaning. Safe. -/
inductive Refusal where
  /-- Raised by an arm of `exec` whose command has no meaning yet; no arm is left so. -/
  | notModelled (mnemonic : String)
  deriving DecidableEq, Repr

/-- The whole machine. STATUS.BUSY is no field: it is `engine.isSome` (R24, R39). -/
structure State where
  /-- ARG0 to ARG2 (R21). -/
  arg0 : Word
  arg1 : Word
  arg2 : Word
  /-- CODE_STAGE[0..7] (R22). -/
  codeStage : Vector Word 8
  /-- STATUS.DONE (R24). -/
  done : Bool
  /-- STATUS.ERR (R24). -/
  err : Bool
  /-- STATUS.REJ (R24). -/
  rej : Bool
  /-- STATUS.TREE_VALID (R24). -/
  treeValid : Bool
  /-- IRQ_EN bits 1:0, ERR_IE and DONE_IE (R25). -/
  irqEn : BitVec 2
  /-- LASTCMD (R26). -/
  lastCmd : Word
  /-- ERR_CODE; `none` is code 0 (R27). -/
  errCode : Option ErrKind
  /-- ERR_INFO (R28). -/
  errInfo : Word
  /-- RES0 to RES2 (R29). -/
  res0 : Word
  res1 : Word
  res2 : Word
  /-- LEAF_COUNT, NODE_COUNT, ROOT and DICT_COUNT (R31). -/
  leafCount : Word
  nodeCount : Word
  root : Word
  dictCount : Word
  /-- WEIGHT[0..255] (R32). -/
  weight : Vector Word 256
  /-- NODE[0..510] (R33). -/
  node : Vector Node 511
  /-- CODE_LEN[0..255] (R35). -/
  codeLen : Vector Byte 256
  /-- CODE_BITS[0..255] (R35). -/
  codeBits : Vector CodeRow 256
  /-- DICT_ORDER[0..255] (R35). -/
  dictOrder : Vector Byte 256
  /-- BUF and its written-mask: a byte that is not listed is unwritten (R38, R39 item 4, R85). -/
  buf : List Host.Cell
  /-- The running command; `none` when BUSY = 0 (R39 item 1). -/
  engine : Option Engine
  /-- log2(BUF_BYTES) − 10, the parameter of R6, 0 to 6; no step changes it. -/
  bufLog : Fin 7
  /-- The inputs still to come, first to be served first (the model's own field; log 1). -/
  inputs : List Input
  /-- What the last host read returned (the model's own field; log 3). -/
  readData : Word
  /-- How many unspecified reads were answered so far (the model's own field; log 4). -/
  draws : Nat
  deriving DecidableEq, Repr

/-- The machine right after hardware reset (R41, R230), with the default BUF_BYTES = 65536 (R6). -/
def State.reset : State where
  arg0 := 0#32
  arg1 := 0#32
  arg2 := 0#32
  codeStage := Vector.replicate 8 0#32
  done := false
  err := false
  rej := false
  treeValid := false
  irqEn := 0#2
  lastCmd := 0#32
  errCode := none
  errInfo := 0#32
  res0 := 0#32
  res1 := 0#32
  res2 := 0#32
  leafCount := 0#32
  nodeCount := 0#32
  root := 0#32
  dictCount := 0#32
  weight := Vector.replicate 256 0#32
  node := Vector.replicate 511 Node.empty
  codeLen := Vector.replicate 256 0#8
  codeBits := Vector.replicate 256 0#256
  dictOrder := Vector.replicate 256 0#8
  buf := []
  engine := none
  bufLog := 6
  inputs := []
  readData := 0#32
  draws := 0

end Sys2Proof.Machine
end

