-- ==== Sys2Proof/Machine/Operands.lean ====
section
/-! DEFINITION. The operand forms of HTB: bit strings and their layout in bytes and words (R9, R22, R35,
R73, R74), the tables indexed by symbol (R32, R35), the private copies a command reads (R92, R112), and
the checks on BUF regions (R11, R79). -/

namespace Sys2Proof.Machine

/-! ## Bit strings -/

/-- The bits of a word, the most significant first. On a byte this is `bits8` of R9; on a staged or
stored word it is the first-bit-first order of R74. -/
def bitsOf {n : Nat} (w : BitVec n) : Bits := (List.range n).map (fun i => w.getMsbD i)

/-- `zeros(n)` of R9. -/
def zeros (n : Nat) : Bits := List.replicate n false

/-- The number whose binary digits are the bits, the first bit the most significant. -/
def bitsValue (c : Bits) : Nat := c.foldl (fun v b => 2 * v + b.toNat) 0

/-- A bit string left-aligned in n bits, with zeros past its end: `c ++ zeros(n − |c|)` (R22, R35). -/
def alignLeft (n : Nat) (c : Bits) : BitVec n := BitVec.ofNat n (bitsValue ((c ++ zeros n).take n))

/-- k bytes from a bit string, eight bits a byte, the most significant first, the last byte padded with
zeros on the right (R73, R170). -/
def packBytes : Nat → Bits → List Byte
  | 0, _ => []
  | k + 1, b => alignLeft 8 (b.take 8) :: packBytes k (b.drop 8)

/-- The bits of the data bytes of a payload: every byte but the last whole, and the leading m bits of
the last (R187). -/
def meaningfulBits : List Byte → Nat → Bits
  | [], _ => []
  | [d], m => (bitsOf d).take m
  | d :: e :: ds, m => bitsOf d ++ meaningfulBits (e :: ds) m

/-! ## Tables indexed by symbol -/

/-- The 256 symbols in ascending order (R5, R131). -/
def symbols : List Byte := (List.range 256).map (BitVec.ofNat 8)

/-- Entry x of a table with one row a symbol. -/
def tableGet {α : Type} (t : Vector α 256) (x : Byte) : α := t[x.toNat]'(x.isLt)

/-- The table with entry x replaced. -/
def tableSet {α : Type} (t : Vector α 256) (x : Byte) (a : α) : Vector α 256 := t.set x.toNat a x.isLt

/-- The symbol has a dictionary entry: CODE_LEN[x] ≠ 0 (R35). -/
def State.hasEntry (s : State) (x : Byte) : Bool := tableGet s.codeLen x != 0#8

/-- `code(x)`: CODE_BITS[x] cut to its first CODE_LEN[x] bits (R10, R35). -/
def State.code (s : State) (x : Byte) : Bits :=
  (List.range (tableGet s.codeLen x).toNat).map (fun i => (tableGet s.codeBits x).getMsbD i)

/-- The entries in dictionary order: DICT_ORDER[0..DICT_COUNT−1] (R35). -/
def State.dictSymbols (s : State) : List Byte := s.dictOrder.toList.take s.dictCount.toNat

/-- Entry i of the node arena; past its end, the empty entry. -/
def State.nodeAt (s : State) (i : Nat) : Node := (s.node[i]?).getD Node.empty

/-! ## The private copies -/

/-- The copies that acceptance of the word w takes (R112). -/
def State.privateCopies (s : State) (w : Word) : Engine where
  cmd := w
  arg0 := s.arg0
  arg1 := s.arg1
  arg2 := s.arg2
  stage := s.codeStage

/-- The copies a command's rule reads: those the engine holds. A step runs a command only while the
engine holds some; with none, the value stands for the registers as they are (log 6). -/
def State.operands (s : State) : Engine :=
  match s.engine with
  | some e => e
  | none => s.privateCopies s.lastCmd

/-- ARG0 as an unsigned number (R21, R92). -/
def State.argSrc (s : State) : Nat := s.operands.arg0.toNat

/-- ARG1 as an unsigned number (R21, R92). -/
def State.argLen (s : State) : Nat := s.operands.arg1.toNat

/-- ARG2 as an unsigned number (R21, R92). -/
def State.argDst (s : State) : Nat := s.operands.arg2.toNat

/-- The 256 bits of a set of CODE_STAGE words: bit i is bit 31 − (i mod 32) of word i div 32 (R22). -/
def stageBits (stage : Vector Word 8) : Bits := stage.toList.flatMap bitsOf

/-- DADD's code: the first l staged bits (R22, R154). -/
def State.stagedCode (s : State) (l : Byte) : Bits := (stageBits s.operands.stage).take l.toNat

/-! ## Regions of BUF -/

/-- BUF_BYTES, one of 2^10, …, 2^16 (R6). -/
def State.bufBytes (s : State) : Nat := 2 ^ (10 + s.bufLog.val)

/-- `InRange(a, len)` of R79; the sum is exact (R11). -/
abbrev State.InRange (s : State) (a len : Nat) : Prop := a + len ≤ s.bufBytes

/-- `Overlap(a, la, b, lb)` of R79. -/
abbrev Overlap (a la b lb : Nat) : Prop := 0 < la ∧ 0 < lb ∧ a < b + lb ∧ b < a + la

/-- `MetaOK(k, M)` of R186. -/
abbrev MetaOK (k m : Nat) : Prop := (k = 0 ∧ m = 0) ∨ (1 ≤ k ∧ 1 ≤ m ∧ m ≤ 8)

/-! ## Detail words -/

/-- ERR_INFO of InvalidInput: kind, symbol and value (R202). -/
def infoInvalidInput (kind sym value : Byte) : Word :=
  BitVec.ofNat 32 (kind.toNat * 2 ^ 24 + sym.toNat * 2 ^ 8 + value.toNat)

/-- ERR_INFO of UnknownSymbol: the symbol and its index (R202). -/
def infoUnknownSymbol (x : Byte) (i : Nat) : Word :=
  BitVec.ofNat 32 (x.toNat * 2 ^ 24 + i % 2 ^ 24)

/-- ERR_INFO of DecodeError: kind and detail (R202). -/
def infoDecodeError (kind : BitVec 2) (detail : Nat) : Word :=
  BitVec.ofNat 32 (kind.toNat * 2 ^ 30 + detail % 2 ^ 30)

/-- ERR_INFO of RangeError: 0, 1 or 2 in bits 1:0 (R202). -/
def infoRangeError (which : Nat) : Word := BitVec.ofNat 32 which

end Sys2Proof.Machine
end

