-- ==== Sys2Proof/Machine/Flags.lean ====
section
/-! DEFINITION. STATUS, IRQ_EN and the interrupt line: every flag HTB has, what reads it and what the
host writes to it (R24, R25, R27, R208, R209). -/

namespace Sys2Proof.Machine

/-- STATUS.BUSY: a command is running (R24, R39). -/
def State.busy (s : State) : Bool := s.engine.isSome

/-- STATUS as a word: BUSY, DONE, ERR, REJ and TREE_VALID in bits 0 to 4, the others 0 (R24). -/
def State.statusWord (s : State) : Word :=
  BitVec.ofNat 32 (s.busy.toNat + s.done.toNat * 2 + s.err.toNat * 4 + s.rej.toNat * 8
    + s.treeValid.toNat * 16)

/-- IRQ_EN.DONE_IE, bit 0 (R25). -/
def State.doneIE (s : State) : Bool := s.irqEn.getLsbD 0

/-- IRQ_EN.ERR_IE, bit 1 (R25). -/
def State.errIE (s : State) : Bool := s.irqEn.getLsbD 1

/-- IRQ_EN as a word: bits 31:2 read 0 (R25). -/
def State.irqEnWord (s : State) : Word := s.irqEn.setWidth 32

/-- The interrupt line IRQ (R208). -/
def State.irq (s : State) : Bool := (s.done && s.doneIE) || ((s.err || s.rej) && s.errIE)

/-- The code of an error kind (R200). -/
def ErrKind.code : ErrKind → Word
  | .invalidInput => 1#32
  | .unknownSymbol => 2#32
  | .decodeError => 3#32
  | .ioError => 4#32
  | .parseError => 5#32
  | .rangeError => 6#32
  | .illegalCommand => 7#32

/-- ERR_CODE as a word: 0 when no error is recorded (R27, R200). -/
def State.errCodeWord (s : State) : Word :=
  match s.errCode with
  | none => 0#32
  | some k => k.code

/-- A STATUS write: bits 1, 2 and 3 clear DONE, ERR and REJ, and bit 2 also clears ERR_CODE and
ERR_INFO; BUSY, TREE_VALID and the reserved bits ignore it (R24). -/
def State.clearStatus (s : State) (v : Word) : State :=
  { s with
    done := s.done && !v.getLsbD 1
    err := s.err && !v.getLsbD 2
    errCode := if v.getLsbD 2 then none else s.errCode
    errInfo := if v.getLsbD 2 then 0#32 else s.errInfo
    rej := s.rej && !v.getLsbD 3 }

/-- An IRQ_EN write keeps bits 1:0 (R25). -/
def State.setIrqEn (s : State) (v : Word) : State := { s with irqEn := v.extractLsb' 0 2 }

end Sys2Proof.Machine
end

