-- ==== Sys2Proof/Machine/Ops.lean ====
section
/-! DEFINITION. The operations commands share: BUF as a memory (R38, R78, R85), the dictionary updates
(R153, R154), acceptance and rejection of a command word (R110 to R112), its two ways to end, commit and
raise (R113, R114), the ways back from an error (R207), and hardware reset (R230). -/

namespace Sys2Proof.Machine

/-! ## BUF -/

/-- BUF: the written bytes, by offset. -/
abbrev Memory := List Host.Cell

/-- The canonical form: offsets strictly rising. An unlisted byte reads as nothing, so no entry can
equal what an unlisted one reads as. -/
abbrev Memory.wf (m : Memory) : Prop := m.Pairwise (fun c d => c.1 < d.1)

/-- The byte at a, or nothing where nothing has written it (R85). -/
def Memory.read : Memory → Nat → Option Byte
  | [], _ => none
  | (b, v) :: m, a => if a = b then some v else Memory.read m a

/-- The memory with v stored at a. -/
def Memory.write : Memory → Nat → Byte → Memory
  | [], a, v => [(a, v)]
  | (b, w) :: m, a, v =>
    if a < b then (a, v) :: (b, w) :: m
    else if a = b then (a, v) :: m
    else (b, w) :: Memory.write m a v

/-- The bytes stored at a, a + 1, … in order: `MemWrite` of R10. -/
def Memory.writeList : Memory → Nat → List Byte → Memory
  | m, _, [] => m
  | m, a, v :: vs => Memory.writeList (Memory.write m a v) (a + 1) vs

/-- Why a command does not commit: it raises an error of R200, or the model faults (R85). -/
inductive Stop where
  | raise (k : ErrKind) (info : Word)
  | fault (f : Fault)
  deriving DecidableEq, Repr

/-- `BufRead(a)` of R10; an unwritten byte faults (R85). -/
def State.bufRead (s : State) (a : Nat) : Except Stop Byte :=
  match Memory.read s.buf a with
  | some v => .ok v
  | none => .error (.fault (.unwrittenBufByte a))

/-- `MemRead(a, n)` of R10: n bytes in ascending order. -/
def State.bufReadList (s : State) : Nat → Nat → Except Stop (List Byte)
  | _, 0 => .ok []
  | a, n + 1 =>
    match s.bufRead a with
    | .error e => .error e
    | .ok v =>
      match s.bufReadList (a + 1) n with
      | .error e => .error e
      | .ok vs => .ok (v :: vs)

/-- The state with the bytes stored in BUF from a on, and nothing else changed. -/
def State.bufWriteList (s : State) (a : Nat) (vs : List Byte) : State :=
  { s with buf := Memory.writeList s.buf a vs }

/-! ## The result registers and the dictionary -/

/-- RES0 to RES2 (R29). -/
def State.setResults (s : State) (r0 r1 r2 : Nat) : State :=
  { s with res0 := BitVec.ofNat 32 r0, res1 := BitVec.ofNat 32 r1, res2 := BitVec.ofNat 32 r2 }

/-- The empty dictionary (R35, R153). -/
def State.clearDictionary (s : State) : State :=
  { s with
    codeLen := Vector.replicate 256 0#8
    codeBits := Vector.replicate 256 0#256
    dictOrder := Vector.replicate 256 0#8
    dictCount := 0#32 }

/-- The dictionary with the code c of the symbol x added after its last entry (R150, R154). -/
def State.addEntry (s : State) (x : Byte) (c : Bits) : State :=
  { s with
    codeLen := tableSet s.codeLen x (BitVec.ofNat 8 c.length)
    codeBits := tableSet s.codeBits x (alignLeft 256 c)
    dictOrder := s.dictOrder.setIfInBounds s.dictCount.toNat x
    dictCount := s.dictCount + 1#32 }

/-! ## The life of a command -/

/-- `accept(w)`: the word is recorded, DONE falls, BUSY rises, and the engine takes its private copies
(R112). -/
def State.accept (s : State) (w : Word) : State :=
  { s with lastCmd := w, done := false, engine := some (s.privateCopies w) }

/-- `reject(w)`: REJ is set and nothing else changes (R111). -/
def State.reject (s : State) : State := { s with rej := true }

/-- SRESET's word, the only one accepted while ERR = 1 (R110). -/
def sresetWord : Word := 0x00000001#32

/-- A host write of w to CMD (R110). -/
def State.issue (s : State) (w : Word) : State :=
  if s.busy then s.reject
  else if s.err ∧ w ≠ sresetWord then s.reject
  else s.accept w

/-- `commit`, applied to the state in which every staged write has been made: BUSY falls and DONE rises
(R113). -/
def State.commit (staged : State) : State := { staged with engine := none, done := true }

/-- `raise k(info)`, HTB's one way to take an error, applied to the state the command found: the staged
writes are gone, ERR_CODE and ERR_INFO say what happened, ERR and DONE rise and BUSY falls (R114, R203,
R204). -/
def State.raise (s : State) (k : ErrKind) (info : Word) : State :=
  { s with errCode := some k, errInfo := info, err := true, engine := none, done := true }

/-- The completion step of a command that found the state s: either all its staged writes take effect,
or none does (R112 to R114, R203). -/
def complete (s : State) (r : Except Stop State) : Host.Outcome State Fault Refusal :=
  match r with
  | .ok staged => .next staged.commit
  | .error (.raise k info) => .next (s.raise k info)
  | .error (.fault f) => .fault f

/-- The host's return from an error by a STATUS write with bit 2 set (R207); SRESET is the other
way (R117). -/
def State.recover (s : State) : State := s.clearStatus 0x00000004#32

/-! ## Reset -/

/-- Every item of R41 at its reset value except BUF, LASTCMD and STATUS, for SRESET (R117). BUF_BYTES,
the running command's copies and the model's own fields are not among the items. -/
def State.resetItems (s : State) : State :=
  { s with
    arg0 := 0#32
    arg1 := 0#32
    arg2 := 0#32
    codeStage := Vector.replicate 8 0#32
    irqEn := 0#2
    errCode := none
    errInfo := 0#32
    res0 := 0#32
    res1 := 0#32
    res2 := 0#32
    leafCount := 0#32
    nodeCount := 0#32
    root := 0#32
    dictCount := 0#32
    weight := Vector.replicate 256 0#32
    node := Vector.replicate 511 Node.empty
    codeLen := Vector.replicate 256 0#8
    codeBits := Vector.replicate 256 0#256
    dictOrder := Vector.replicate 256 0#8 }

/-- Hardware reset, one atomic step: every item of R41 takes its reset value, BUF becomes unwritten and
a running command is abandoned (R230). BUF_BYTES and the model's own fields stay. -/
def State.hardReset (s : State) : State :=
  { s.resetItems with
    done := false
    err := false
    rej := false
    treeValid := false
    lastCmd := 0#32
    buf := []
    engine := none }

/-! ## Placing a command -/

/-- The state just after the word w was accepted, with the engine's completion step next in line: what
the host's CMD write leaves (R110, R112), for `State.withFetchWord` (log 5). -/
def State.placeCommand (s : State) (w : Word) : State :=
  { s.accept w with inputs := .complete :: s.inputs }

end Sys2Proof.Machine
end

