-- ==== Sys2Proof/Machine/Bus.lean ====
section
/-! DEFINITION. The host's side: the register window and its map (spec 10_state.md R40), host reads and
writes (20_memory.md R70 to R77, R85), and what they may do while a command runs (70_reset_and_hazards.md
R233, R234). -/

namespace Sys2Proof.Machine

/-! ## The register map -/

/-- The four words of an arena entry (R34). -/
inductive NodePart where
  | wlo
  | whi
  | info
  | link
  deriving DecidableEq, Repr

/-- A 32-bit register of the window (R40). -/
inductive Reg where
  | id
  | params
  | status
  | irqEn
  | cmd
  | errCode
  | errInfo
  | arg0
  | arg1
  | arg2
  | res0
  | res1
  | res2
  | leafCount
  | nodeCount
  | root
  | dictCount
  | codeStage (w : Fin 8)
  | weight (x : Byte)
  | codeLen (x : Byte)
  | dictOrder (k : Byte)
  | codeBits (x : Byte) (w : Fin 8)
  | node (i : Fin 511) (part : NodePart)
  deriving DecidableEq, Repr

/-- The place of a word in its arena entry (R34). -/
def NodePart.offset : NodePart → Nat
  | .wlo => 0
  | .whi => 4
  | .info => 8
  | .link => 12

/-- The offset of a register in the window (R40). -/
def Reg.offset : Reg → Nat
  | .id => 0x00000
  | .params => 0x00004
  | .status => 0x00008
  | .irqEn => 0x0000C
  | .cmd => 0x00010
  | .errCode => 0x00014
  | .errInfo => 0x00018
  | .arg0 => 0x00020
  | .arg1 => 0x00024
  | .arg2 => 0x00028
  | .res0 => 0x00030
  | .res1 => 0x00034
  | .res2 => 0x00038
  | .leafCount => 0x00040
  | .nodeCount => 0x00044
  | .root => 0x00048
  | .dictCount => 0x0004C
  | .codeStage w => 0x00060 + 4 * w.val
  | .weight x => 0x00400 + 4 * x.toNat
  | .codeLen x => 0x00800 + 4 * x.toNat
  | .dictOrder k => 0x00C00 + 4 * k.toNat
  | .codeBits x w => 0x02000 + 32 * x.toNat + 4 * w.val
  | .node i part => 0x04000 + 16 * i.val + part.offset

/-- The word of an arena entry at offset 4·j of it (R34). -/
def nodePartAt (j : Nat) : NodePart :=
  if j = 0 then .wlo else if j = 1 then .whi else if j = 2 then .info else .link

/-- The registers below 0x80 (R40). -/
def lowRegAt (off : Nat) : Option Reg :=
  if off = 0x00000 then some .id
  else if off = 0x00004 then some .params
  else if off = 0x00008 then some .status
  else if off = 0x0000C then some .irqEn
  else if off = 0x00010 then some .cmd
  else if off = 0x00014 then some .errCode
  else if off = 0x00018 then some .errInfo
  else if off = 0x00020 then some .arg0
  else if off = 0x00024 then some .arg1
  else if off = 0x00028 then some .arg2
  else if off = 0x00030 then some .res0
  else if off = 0x00034 then some .res1
  else if off = 0x00038 then some .res2
  else if off = 0x00040 then some .leafCount
  else if off = 0x00044 then some .nodeCount
  else if off = 0x00048 then some .root
  else if off = 0x0004C then some .dictCount
  else if 0x00060 ≤ off ∧ off < 0x00080 then some (.codeStage (Fin.ofNat 8 ((off - 0x00060) / 4)))
  else none

/-- The register at an aligned offset below 0x10000; none where the offset is reserved (R40). -/
def regAt (off : Nat) : Option Reg :=
  if off < 0x00080 then lowRegAt off
  else if 0x00400 ≤ off ∧ off < 0x00800 then some (.weight (BitVec.ofNat 8 ((off - 0x00400) / 4)))
  else if 0x00800 ≤ off ∧ off < 0x00C00 then some (.codeLen (BitVec.ofNat 8 ((off - 0x00800) / 4)))
  else if 0x00C00 ≤ off ∧ off < 0x01000 then some (.dictOrder (BitVec.ofNat 8 ((off - 0x00C00) / 4)))
  else if 0x02000 ≤ off ∧ off < 0x04000 then
    some (.codeBits (BitVec.ofNat 8 ((off - 0x02000) / 32)) (Fin.ofNat 8 ((off - 0x02000) % 32 / 4)))
  else if 0x04000 ≤ off ∧ off < 0x05FF0 then
    some (.node (Fin.ofNat 511 ((off - 0x04000) / 16)) (nodePartAt ((off - 0x04000) % 16 / 4)))
  else none

/-- PARAMS: log2(BUF_BYTES) in bits 12:8 and L_MAX in bits 7:0 (R30). -/
def State.paramsWord (s : State) : Word :=
  BitVec.ofNat 32 ((10 + s.bufLog.val) * 2 ^ 8 + Config.lMax)

/-- NODE_WLO, NODE_WHI, NODE_INFO and NODE_LINK of an entry (R34). -/
def nodeWord (n : Node) : NodePart → Word
  | .wlo => n.weight.extractLsb' 0 32
  | .whi => (n.weight.extractLsb' 32 8).setWidth 32
  | .info => BitVec.ofNat 32 (n.leaf.toNat * 2 ^ 31 + n.symbol.toNat)
  | .link => BitVec.ofNat 32 (n.right.toNat * 2 ^ 16 + n.left.toNat)

/-- Word w of a CODE_BITS entry, its first 32 bits in word 0 (R35, R74). -/
def codeRowWord (row : CodeRow) (w : Fin 8) : Word := row.extractLsb' (224 - 32 * w.val) 32

/-- What a 32-bit read of a register returns with BUSY = 0 (R21 to R35). -/
def State.readReg (s : State) : Reg → Word
  | .id => Config.idValue
  | .params => s.paramsWord
  | .status => s.statusWord
  | .irqEn => s.irqEnWord
  | .cmd => s.lastCmd
  | .errCode => s.errCodeWord
  | .errInfo => s.errInfo
  | .arg0 => s.arg0
  | .arg1 => s.arg1
  | .arg2 => s.arg2
  | .res0 => s.res0
  | .res1 => s.res1
  | .res2 => s.res2
  | .leafCount => s.leafCount
  | .nodeCount => s.nodeCount
  | .root => s.root
  | .dictCount => s.dictCount
  | .codeStage w => s.codeStage[w.val]
  | .weight x => tableGet s.weight x
  | .codeLen x => (tableGet s.codeLen x).setWidth 32
  | .dictOrder k => (tableGet s.dictOrder k).setWidth 32
  | .codeBits x w => codeRowWord (tableGet s.codeBits x) w
  | .node i part => nodeWord (s.nodeAt i.val) part

/-- A 32-bit write of a register: STATUS clears, CMD issues, IRQ_EN, ARG0 to ARG2, CODE_STAGE and WEIGHT
store, and every read-only register ignores it (R40, R76, R77). -/
def State.writeReg (s : State) (v : Word) : Reg → State
  | .id => s
  | .params => s
  | .status => s.clearStatus v
  | .irqEn => s.setIrqEn v
  | .cmd => s.issue v
  | .errCode => s
  | .errInfo => s
  | .arg0 => { s with arg0 := v }
  | .arg1 => { s with arg1 := v }
  | .arg2 => { s with arg2 := v }
  | .res0 => s
  | .res1 => s
  | .res2 => s
  | .leafCount => s
  | .nodeCount => s
  | .root => s
  | .dictCount => s
  | .codeStage w => { s with codeStage := s.codeStage.set w.val v }
  | .weight x => { s with weight := tableSet s.weight x v }
  | .codeLen _ => s
  | .dictOrder _ => s
  | .codeBits _ _ => s
  | .node _ _ => s

/-- The registers whose reads are exact while BUSY = 1 (R234). -/
def Reg.readableWhileBusy : Reg → Bool
  | .id => true
  | .params => true
  | .status => true
  | .irqEn => true
  | .cmd => true
  | .errCode => true
  | .errInfo => true
  | .arg0 => false
  | .arg1 => false
  | .arg2 => false
  | .res0 => false
  | .res1 => false
  | .res2 => false
  | .leafCount => false
  | .nodeCount => false
  | .root => false
  | .dictCount => false
  | .codeStage _ => false
  | .weight _ => false
  | .codeLen _ => false
  | .dictOrder _ => false
  | .codeBits _ _ => false
  | .node _ _ => false

/-- The registers the host may write while BUSY = 1 (R233). -/
def Reg.writableWhileBusy : Reg → Bool
  | .status => true
  | .cmd => true
  | .id => false
  | .params => false
  | .irqEn => false
  | .errCode => false
  | .errInfo => false
  | .arg0 => false
  | .arg1 => false
  | .arg2 => false
  | .res0 => false
  | .res1 => false
  | .res2 => false
  | .leafCount => false
  | .nodeCount => false
  | .root => false
  | .dictCount => false
  | .codeStage _ => false
  | .weight _ => false
  | .codeLen _ => false
  | .dictOrder _ => false
  | .codeBits _ _ => false
  | .node _ _ => false

/-! ## Where an access goes -/

/-- The offset of BUF in the window (R40). -/
abbrev bufBase : Nat := 0x10000

/-- What an access reaches (R71, R75, R76). -/
inductive Target where
  /-- An access R71 does not list as valid. -/
  | invalid
  /-- A reserved offset. -/
  | reserved
  | reg (r : Reg)
  | bufByte (a : Nat)
  | bufWord (a : Nat)
  deriving DecidableEq, Repr

/-- The target of an access. A misaligned word access past the end of BUF counts as one to a reserved
offset (R71, R75, R76; log 9). -/
def State.target (s : State) (off : BitVec 17) : AccessSize → Target
  | .half => .invalid
  | .byte =>
    if off.toNat < bufBase then .invalid
    else if off.toNat - bufBase < s.bufBytes then .bufByte (off.toNat - bufBase)
    else .reserved
  | .word =>
    if off.toNat < bufBase then
      if off.toNat % 4 = 0 then
        match regAt off.toNat with
        | some r => .reg r
        | none => .reserved
      else .invalid
    else if off.toNat - bufBase < s.bufBytes then
      if off.toNat % 4 = 0 then .bufWord (off.toNat - bufBase) else .invalid
    else .reserved

/-- The offset in the window of a host address, if the platform sends it to HTB (R40, R70). -/
def windowOffset (addr : Nat) : Option (BitVec 17) :=
  if Config.htbBase ≤ addr ∧ addr < Config.htbBase + 0x20000 then
    some (BitVec.ofNat 17 (addr - Config.htbBase))
  else none

/-! ## Reads -/

/-- A read answers with v and changes nothing else (R77). -/
def State.respond (s : State) (v : Word) : State := { s with readData := v }

/-- The free value of an unspecified read, 8 or 32 bits by the access size (R234, S3). -/
def freeRead (n : Nat) : AccessSize → Word
  | .byte => (Config.freeByte n).setWidth 32
  | .half => Config.freeWord n
  | .word => Config.freeWord n

/-- An unspecified read: a fresh free value, and no side effect (R234). -/
def State.respondFree (s : State) (size : AccessSize) : State :=
  { s with readData := freeRead s.draws size, draws := s.draws + 1 }

/-- Four bytes as one little-endian word, the byte at the lowest offset in bits 7:0 (R72). -/
def wordOfBytes (b0 b1 b2 b3 : Byte) : Word :=
  BitVec.ofNat 32 (b3.toNat * 2 ^ 24 + b2.toNat * 2 ^ 16 + b1.toNat * 2 ^ 8 + b0.toNat)

/-- A read of a BUF byte; an unwritten byte faults (R85). -/
def readBufByte (s : State) (a : Nat) : Host.Outcome State Fault Refusal :=
  match Memory.read s.buf a with
  | some v => .next (s.respond (v.setWidth 32))
  | none => .fault (.unwrittenBufByte a)

/-- A read of an aligned BUF word; an unwritten byte in it faults, the lowest first (R72, R85). -/
def readBufWord (s : State) (a : Nat) : Host.Outcome State Fault Refusal :=
  match Memory.read s.buf a, Memory.read s.buf (a + 1), Memory.read s.buf (a + 2),
      Memory.read s.buf (a + 3) with
  | some b0, some b1, some b2, some b3 => .next (s.respond (wordOfBytes b0 b1 b2 b3))
  | none, _, _, _ => .fault (.unwrittenBufByte a)
  | some _, none, _, _ => .fault (.unwrittenBufByte (a + 1))
  | some _, some _, none, _ => .fault (.unwrittenBufByte (a + 2))
  | some _, some _, some _, none => .fault (.unwrittenBufByte (a + 3))

/-- `Read(off, size)` (R71). An invalid read returns 0 whether a command runs or not (R75; log 9); any
other read while BUSY = 1 is exact for the registers of R234 and unspecified elsewhere. -/
def hostRead (off : BitVec 17) (size : AccessSize) (s : State) : Host.Outcome State Fault Refusal :=
  match s.target off size with
  | .invalid => .next (s.respond 0#32)
  | .reserved => if s.busy then .next (s.respondFree size) else .next (s.respond 0#32)
  | .reg r =>
    if s.busy && !r.readableWhileBusy then .next (s.respondFree size) else .next (s.respond (s.readReg r))
  | .bufByte a => if s.busy then .next (s.respondFree size) else readBufByte s a
  | .bufWord a => if s.busy then .next (s.respondFree size) else readBufWord s a

/-! ## Writes -/

/-- Byte j of a word, byte 0 the least significant (R72). -/
def byteOfWord (v : Word) (j : Nat) : Byte := v.extractLsb' (8 * j) 8

/-- The four bytes of a word as BUF holds them, the least significant first (R72). -/
def bytesOfWord (v : Word) : List Byte := [byteOfWord v 0, byteOfWord v 1, byteOfWord v 2, byteOfWord v 3]

/-- `Write(off, size, v)` (R71). An invalid write has no effect (R75). While BUSY = 1 only STATUS and CMD
may be written (R233). A byte write stores bits 7:0 of the value. -/
def hostWrite (off : BitVec 17) (size : AccessSize) (v : Word) (s : State) :
    Host.Outcome State Fault Refusal :=
  match s.target off size with
  | .invalid => .next s
  | .reserved => if s.busy then .fault (.writeWhileBusy off) else .next s
  | .reg r =>
    if s.busy && !r.writableWhileBusy then .fault (.writeWhileBusy off) else .next (s.writeReg v r)
  | .bufByte a =>
    if s.busy then .fault (.writeWhileBusy off) else .next (s.bufWriteList a [byteOfWord v 0])
  | .bufWord a =>
    if s.busy then .fault (.writeWhileBusy off) else .next (s.bufWriteList a (bytesOfWord v))

/-- A host transaction, one atomic step (R71, R238). -/
def serve (t : Transaction) (s : State) : Host.Outcome State Fault Refusal :=
  match t with
  | .read off size => hostRead off size s
  | .write off size v => hostWrite off size v s

end Sys2Proof.Machine
end

