-- ==== Sys2Proof/Machine/Control.lean ====
section
/-! DEFINITION. The control commands and the illegal command (spec 40_control.md R115 to R117). -/

namespace Sys2Proof.Machine

/-- NOP commits with no staged writes (R116). -/
def execNop (s : State) : Host.Outcome State Fault Refusal := complete s (.ok s)

/-- What SRESET stages: every item but BUF at its reset value, LASTCMD = 1 and STATUS = 0 (R117). -/
def sresetStaged (s : State) : State :=
  { s.resetItems with
    lastCmd := sresetWord
    done := false
    err := false
    rej := false
    treeValid := false }

/-- SRESET (R117). -/
def execSreset (s : State) : Host.Outcome State Fault Refusal := complete s (.ok (sresetStaged s))

/-- An accepted illegal word raises IllegalCommand with the word itself (R115). -/
def execIllegal (w : Word) (s : State) : Host.Outcome State Fault Refusal :=
  complete s (.error (.raise .illegalCommand w))

end Sys2Proof.Machine
end

