-- ==== Sys2Proof/Machine/Dictionary.lean ====
section
/-! DEFINITION. The code generator and the dictionary load: GEN, DCLEAR and DADD (spec
42_code_generator.md R150 to R155). -/

namespace Sys2Proof.Machine

/-- GEN's walk from an explicit stack of arena indices and codes, the last pushed first: the leaves it
meets with their codes, in order. It pops at most `fuel` times (R150, R151). -/
def walk (s : State) : Nat → List (Nat × Bits) → List (Byte × Bits)
  | 0, _ => []
  | _ + 1, [] => []
  | fuel + 1, (i, c) :: stack =>
    let n := s.nodeAt i
    if n.leaf then (n.symbol, c) :: walk s fuel stack
    else walk s fuel ((n.left.toNat, c ++ [false]) :: (n.right.toNat, c ++ [true]) :: stack)

/-- The walk from ROOT. A tree has at most N_NODES = 511 nodes and each is popped once, so the bound
cuts no walk of a tree (R37, R237; log 7). -/
def genEntries (s : State) : List (Byte × Bits) := walk s Config.nNodes [(s.root.toNat, [])]

/-- Entries added one after the other (R150). -/
def addEntries (s : State) (es : List (Byte × Bits)) : State :=
  es.foldl (fun t e => t.addEntry e.1 e.2) s

/-- What a successful GEN stages (R150). -/
def genStaged (s : State) : State := addEntries s.clearDictionary (genEntries s)

/-- GEN's rule: no tree is InvalidInput kind 2 (R150). -/
def genBody (s : State) : Except Stop State :=
  if s.treeValid then .ok (genStaged s)
  else .error (.raise .invalidInput (infoInvalidInput 2#8 0#8 0#8))

/-- GEN (R150). -/
def execGen (s : State) : Host.Outcome State Fault Refusal := complete s (genBody s)

/-- DCLEAR (R153). -/
def execDclear (s : State) : Host.Outcome State Fault Refusal := complete s (.ok s.clearDictionary)

/-- Two codes conflict when one is a prefix of the other (R9, R154). -/
def conflicts (c d : Bits) : Bool := c.isPrefixOf d || d.isPrefixOf c

/-- The first entry in dictionary order whose code conflicts with c (R154). -/
def firstConflict (s : State) (c : Bits) : Option Byte :=
  s.dictSymbols.find? (fun t => conflicts (s.code t) c)

/-- DADD's rule, its checks in order: empty code, duplicate symbol, prefix conflict (R154, R205). -/
def daddBody (sym len : Byte) (s : State) : Except Stop State :=
  let c := s.stagedCode len
  if len = 0#8 then .error (.raise .invalidInput (infoInvalidInput 4#8 sym 0#8))
  else if s.hasEntry sym then .error (.raise .invalidInput (infoInvalidInput 5#8 sym 0#8))
  else
    match firstConflict s c with
    | some t => .error (.raise .invalidInput (infoInvalidInput 6#8 sym t))
    | none => .ok (s.addEntry sym c)

/-- DADD (R154). -/
def execDadd (sym len : Byte) (s : State) : Host.Outcome State Fault Refusal :=
  complete s (daddBody sym len s)

end Sys2Proof.Machine
end

