-- ==== Sys2Proof/Machine/Packer.lean ====
section
/-! DEFINITION. The bit packer: PACK (spec 43_bit_packer.md R170 to R172). -/

namespace Sys2Proof.Machine

/-- The n input symbols from offset a on, the first of them number i of the source. The first symbol
with no entry raises UnknownSymbol (R170). -/
def packSymbols (s : State) : Nat → Nat → Nat → Except Stop (List Byte)
  | 0, _, _ => .ok []
  | n + 1, a, i =>
    match s.bufRead a with
    | .error e => .error e
    | .ok x =>
      if s.hasEntry x then
        match packSymbols s n (a + 1) (i + 1) with
        | .error e => .error e
        | .ok xs => .ok (x :: xs)
      else .error (.raise .unknownSymbol (infoUnknownSymbol x i))

/-- The bit string B: the codes of the symbols, one after the other (R170). -/
def codeString (s : State) (xs : List Byte) : Bits := xs.flatMap s.code

/-- k, the number of data bytes for T bits (R170, R171). -/
def dataBytes (t : Nat) : Nat := (t + 7) / 8

/-- M, the metadata byte for T bits: 0 for none, else the bits in the last data byte, 1 to 8 (R171). -/
def metaByte (t : Nat) : Nat := if t = 0 then 0 else t - 8 * (dataBytes t - 1)

/-- The payload of a bit string: its data bytes and the metadata byte (R170). -/
def payload (b : Bits) : List Byte :=
  packBytes (dataBytes b.length) b ++ [BitVec.ofNat 8 (metaByte b.length)]

/-- What a successful PACK stages (R170). -/
def packStaged (s : State) (dst : Nat) (b : Bits) : State :=
  (s.bufWriteList dst (payload b)).setResults (dataBytes b.length + 1) b.length (metaByte b.length)

/-- PACK's rule from the point where B is known: destination range, then overlap (R170, R205). -/
def packStore (s : State) (src n dst : Nat) (b : Bits) : Except Stop State :=
  if ¬ s.InRange dst (dataBytes b.length + 1) then .error (.raise .rangeError (infoRangeError 1))
  else if Overlap src n dst (dataBytes b.length + 1) then .error (.raise .rangeError (infoRangeError 2))
  else .ok (packStaged s dst b)

/-- PACK's rule: source range, empty dictionary, unknown symbol, then the store (R170, R205). -/
def packBody (s : State) : Except Stop State :=
  if ¬ s.InRange s.argSrc s.argLen then .error (.raise .rangeError (infoRangeError 0))
  else if s.dictCount = 0#32 then .error (.raise .invalidInput (infoInvalidInput 3#8 0#8 0#8))
  else
    match packSymbols s s.argLen s.argSrc 0 with
    | .error e => .error e
    | .ok xs => packStore s s.argSrc s.argLen s.argDst (codeString s xs)

/-- PACK (R170). -/
def execPack (s : State) : Host.Outcome State Fault Refusal := complete s (packBody s)

end Sys2Proof.Machine
end

