-- ==== Sys2Proof/Machine/Tree.lean ====
section
/-! DEFINITION. The tree builder: WCLEAR and BUILD (spec 41_tree_builder.md R130 to R135). -/

namespace Sys2Proof.Machine

/-- What WCLEAR stages (R130). -/
def wclearStaged (s : State) : State := { s with weight := Vector.replicate 256 0#32 }

/-- WCLEAR (R130). -/
def execWclear (s : State) : Host.Outcome State Fault Refusal := complete s (.ok (wclearStaged s))

/-- The leaf set L: the symbols with a non-zero weight, ascending (R131). -/
def leafSet (weight : Vector Word 256) : List Byte :=
  symbols.filter (fun x => tableGet weight x != 0#32)

/-- The leaf of the symbol x (R131, R133). -/
def leafNode (weight : Vector Word 256) (x : Byte) : Node where
  weight := (tableGet weight x).setWidth 40
  leaf := true
  symbol := x
  left := 0#9
  right := 0#9

/-- The arena while BUILD runs: a list, N[i] its entry i. -/
def arenaAt (arena : List Node) (i : Nat) : Node := arena.getD i Node.empty

/-- `a ≺ b`: by weight, then by arena index (R132). -/
def precedes (arena : List Node) (a b : Nat) : Bool :=
  decide ((arenaAt arena a).weight.toNat < (arenaAt arena b).weight.toNat) ||
    (decide ((arenaAt arena a).weight.toNat = (arenaAt arena b).weight.toNat) && decide (a < b))

/-- The ≺-least of an element and the elements of a list (R133). -/
def leastFrom (arena : List Node) : Nat → List Nat → Nat
  | a, [] => a
  | a, b :: bs => leastFrom arena (if precedes arena b a then b else a) bs

/-- The ≺-least element of the forest (R133). -/
def least (arena : List Node) : List Nat → Option Nat
  | [] => none
  | a :: as => some (leastFrom arena a as)

/-- The internal node over the children a and b: its weight is their exact sum (R133). -/
def mergeNode (arena : List Node) (a b : Nat) : Node where
  weight := (arenaAt arena a).weight + (arenaAt arena b).weight
  leaf := false
  symbol := 0#8
  left := BitVec.ofNat 9 a
  right := BitVec.ofNat 9 b

/-- One merge: the two ≺-least elements of the forest A become the children of the next arena entry,
which takes their place in A (R133). -/
def mergeOnce (arena : List Node) (forest : List Nat) : List Node × List Nat :=
  match least arena forest with
  | none => (arena, forest)
  | some a =>
    match least arena (forest.erase a) with
    | none => (arena, forest)
    | some b => (arena ++ [mergeNode arena a b], (forest.erase a).erase b ++ [arena.length])

/-- A number of merges, one after the other (R133). -/
def mergeMany : Nat → List Node × List Nat → List Node × List Nat
  | 0, st => st
  | k + 1, st => mergeMany k (mergeOnce st.1 st.2)

/-- The arena BUILD makes from a leaf set of n leaves, by n − 1 merges (R133). -/
def buildArena (weight : Vector Word 256) : List Node :=
  let leaves := (leafSet weight).map (leafNode weight)
  (mergeMany (leaves.length - 1) (leaves, List.range leaves.length)).1

/-- The node table holding an arena from entry 0 on, and empty entries after it (R33, R133). -/
def nodeTable (arena : List Node) : Vector Node 511 := Vector.ofFn (fun i => arenaAt arena i.val)

/-- What a successful BUILD stages for a leaf set of n leaves (R133). -/
def buildStaged (s : State) : State :=
  let n := (leafSet s.weight).length
  { s with
    node := nodeTable (buildArena s.weight)
    leafCount := BitVec.ofNat 32 n
    nodeCount := BitVec.ofNat 32 (2 * n - 1)
    root := BitVec.ofNat 32 (2 * n - 2)
    treeValid := true }

/-- BUILD's rule: fewer than two leaves is InvalidInput kind 1 (R133). -/
def buildBody (s : State) : Except Stop State :=
  let n := (leafSet s.weight).length
  if n < 2 then .error (.raise .invalidInput (infoInvalidInput 1#8 0#8 (BitVec.ofNat 8 n)))
  else .ok (buildStaged s)

/-! ## HFC's literal loop: a stable sort by weight at the start of every iteration (R134) -/

/-- An index put before the first one of no smaller weight (R134). -/
def insertByWeight (arena : List Node) (a : Nat) : List Nat → List Nat
  | [] => [a]
  | b :: bs =>
    if (arenaAt arena a).weight.toNat ≤ (arenaAt arena b).weight.toNat then a :: b :: bs
    else b :: insertByWeight arena a bs

/-- The stable sort by weight: indices of equal weight keep their order (R134). -/
def sortByWeight (arena : List Node) : List Nat → List Nat
  | [] => []
  | a :: as => insertByWeight arena a (sortByWeight arena as)

/-- One iteration of HFC's loop: sort the working list, merge its first two, append the new node (R134). -/
def stableOnce (arena : List Node) (work : List Nat) : List Node × List Nat :=
  match sortByWeight arena work with
  | a :: b :: rest => (arena ++ [mergeNode arena a b], rest ++ [arena.length])
  | _ => (arena, work)

/-- A number of iterations of HFC's loop (R134). -/
def stableMany : Nat → List Node × List Nat → List Node × List Nat
  | 0, st => st
  | k + 1, st => stableMany k (stableOnce st.1 st.2)

/-- The arena HFC's literal algorithm makes (R134). -/
def stableArena (weight : Vector Word 256) : List Node :=
  let leaves := (leafSet weight).map (leafNode weight)
  (stableMany (leaves.length - 1) (leaves, List.range leaves.length)).1

/-- BUILD (R133). -/
def execBuild (s : State) : Host.Outcome State Fault Refusal := complete s (buildBody s)

end Sys2Proof.Machine
end

