-- ==== Sys2Proof/Machine/Unpacker.lean ====
section
/-! DEFINITION. The bit unpacker: UNPACK (spec 44_bit_unpacker.md R185 to R190). -/

namespace Sys2Proof.Machine

/-- The code of the symbol x stands at the front of the bits that are left (R188). -/
def entryMatches (s : State) (rest : Bits) (x : Byte) : Bool :=
  s.hasEntry x && (s.code x).isPrefixOf rest

/-- `Match(T, p)`, given the bits of T from p on: the symbol whose whole code stands there. At most one
does when the dictionary is prefix-free (R36, R188; log 8). -/
def matchCode (s : State) (rest : Bits) : Option Byte := symbols.find? (entryMatches s rest)

/-- UNPACK's loop on the bits left from position p on: the symbols they decode to, or the position of
the first that matches no code. Each symbol takes at least one bit, so as many rounds as bits are enough
(R185, R190). -/
def decodeBits (s : State) : Nat → Bits → Nat → Except Nat (List Byte)
  | _, [], _ => .ok []
  | 0, _ :: _, p => .error p
  | fuel + 1, b :: bs, p =>
    match matchCode s (b :: bs) with
    | none => .error p
    | some x =>
      match decodeBits s fuel ((b :: bs).drop (s.code x).length) (p + (s.code x).length) with
      | .error q => .error q
      | .ok xs => .ok (x :: xs)

/-- The whole bit string T decoded (R185). -/
def decodeAll (s : State) (t : Bits) : Except Nat (List Byte) := decodeBits s t.length t 0

/-- What a successful UNPACK stages for the output xs of T meaningful bits (R185). -/
def unpackStaged (s : State) (dst t m : Nat) (xs : List Byte) : State :=
  (s.bufWriteList dst xs).setResults xs.length t m

/-- UNPACK's rule from the point where the output is known: destination range, then overlap (R185,
R205). -/
def unpackStore (s : State) (src len dst t m : Nat) (xs : List Byte) : Except Stop State :=
  if ¬ s.InRange dst xs.length then .error (.raise .rangeError (infoRangeError 1))
  else if Overlap src len dst xs.length then .error (.raise .rangeError (infoRangeError 2))
  else .ok (unpackStaged s dst t m xs)

/-- UNPACK's rule from the point where the data bytes and M are known (R185, R187). -/
def unpackDecode (s : State) (data : List Byte) (m : Nat) : Except Stop State :=
  let t := meaningfulBits data m
  match decodeAll s t with
  | .error p => .error (.raise .decodeError (infoDecodeError 0#2 p))
  | .ok xs => unpackStore s s.argSrc s.argLen s.argDst t.length m xs

/-- UNPACK's rule: source range, empty dictionary, no metadata byte, illegal metadata byte, then the
decode (R185, R186, R205). -/
def unpackBody (s : State) : Except Stop State :=
  if ¬ s.InRange s.argSrc s.argLen then .error (.raise .rangeError (infoRangeError 0))
  else if s.dictCount = 0#32 then .error (.raise .invalidInput (infoInvalidInput 3#8 0#8 0#8))
  else if s.argLen = 0 then .error (.raise .decodeError (infoDecodeError 2#2 0))
  else
    match s.bufRead (s.argSrc + (s.argLen - 1)) with
    | .error e => .error e
    | .ok m =>
      if ¬ MetaOK (s.argLen - 1) m.toNat then
        .error (.raise .decodeError (infoDecodeError 1#2 m.toNat))
      else
        match s.bufReadList s.argSrc (s.argLen - 1) with
        | .error e => .error e
        | .ok data => unpackDecode s data m.toNat

/-- UNPACK (R185). -/
def execUnpack (s : State) : Host.Outcome State Fault Refusal := complete s (unpackBody s)

/-! ## Prefix-tree traversal -/

/-- The symbol whose whole code is q (R189). -/
def codeEquals (s : State) (q : Bits) : Option Byte :=
  symbols.find? (fun x => s.hasEntry x && s.code x == q)

/-- Some code has q as a proper prefix (R189). -/
def codeExtends (s : State) (q : Bits) : Bool :=
  symbols.any (fun x => s.hasEntry x && (q.isPrefixOf (s.code x) && decide (q.length < (s.code x).length)))

/-- The bit-by-bit walk of R189 from the prefix q, with the bits still to come: a symbol, or none for
its two error lines. -/
def prefixWalk (s : State) : Bits → Bits → Option Byte
  | q, rest =>
    match codeEquals s q with
    | some x => some x
    | none =>
      if codeExtends s q then
        match rest with
        | [] => none
        | b :: bs => prefixWalk s (q ++ [b]) bs
      else none
  termination_by structural _ rest => rest

end Sys2Proof.Machine
end

