-- ==== Sys2Proof/Machine/Step.lean ====
section
/-! DEFINITION. One step of HTB: the next input is served, or the running command completes (R7, R71,
R80, R206). -/

namespace Sys2Proof.Machine

/-- The engine's turn: the running command completes. Its word is decoded here, and an illegal word runs
the illegal command (R112, R115). With no command running nothing happens. -/
def engineStep (s : State) : Host.Outcome State Fault Refusal :=
  match s.engine with
  | none => .next s
  | some e =>
    match decode e.cmd with
    | .ok i => exec i s
    | .error _ => execIllegal e.cmd s

/-- One atomic step. The first input says whose turn it is; when none is left, a running command
completes (R206, R237; log 1). -/
def step (s : State) : Host.Outcome State Fault Refusal :=
  match s.inputs with
  | [] => engineStep s
  | .complete :: rest => engineStep { s with inputs := rest }
  | .access t :: rest => serve t { s with inputs := rest }
  | .hardReset :: rest => .next (State.hardReset { s with inputs := rest })

/-- s with the command of these bits accepted and about to run, so that the next step runs it (log 5). -/
def State.withFetchWord (s : State) (nbits w : Nat) : State := s.placeCommand (tableWord nbits w)

end Sys2Proof.Machine
end

