-- ==== Sys2Proof/Machine/HostProgram.lean ====
section
/-! DEFINITION. The host assembler of spec 30_encoding.md R96 and R97: each statement as the inputs it
stands for. A host program is a list of these, joined. -/

namespace Sys2Proof.Machine

/-- The offset of a register as a transaction carries it (R40). -/
def Reg.busOffset (r : Reg) : BitVec 17 := BitVec.ofNat 17 r.offset

/-- The offset of BUF[a] (R40), in the 17 bits a transaction carries (log 22). -/
def bufOffset (a : Nat) : BitVec 17 := BitVec.ofNat 17 (bufBase + a)

/-- `wr32 <offset>, <value>` (R96). -/
def asmWr32At (off : BitVec 17) (v : Word) : List Input := [.access (.write off .word v)]

/-- `wr32 <name>, <value>` (R96). -/
def asmWr32 (r : Reg) (v : Word) : List Input := asmWr32At r.busOffset v

/-- `rd32 <offset>` (R96). -/
def asmRd32At (off : BitVec 17) : List Input := [.access (.read off .word)]

/-- `rd32 <name>` (R96). -/
def asmRd32 (r : Reg) : List Input := asmRd32At r.busOffset

/-- `wr8 BUF[<a>], <byte>` (R96). -/
def asmWr8 (a : Nat) (v : Byte) : List Input := [.access (.write (bufOffset a) .byte (v.setWidth 32))]

/-- `rd8 BUF[<a>]` (R96). -/
def asmRd8 (a : Nat) : List Input := [.access (.read (bufOffset a) .byte)]

/-- `.word <value>`, a raw CMD word (R96). -/
def asmWord (w : Word) : List Input := asmWr32 .cmd w

/-- A command's own statement, its legal word written to CMD (R96). -/
def asmCommand (i : Instr) : List Input := asmWord (encode i)

/-- `wait` (R97): reads of STATUS until BUSY reads 0. The poll reads BUSY = 1 `busyReads` times, then the
command completes, and one more read sees BUSY = 0 (R80, R237; log 10). -/
def asmWait (busyReads : Nat) : List Input :=
  (List.replicate busyReads (asmRd32 .status)).flatten ++ [.complete] ++ asmRd32 .status

/-- `do` with the word w (R97). -/
def asmDoWord (w : Word) (busyReads : Nat) : List Input := asmWord w ++ asmWait busyReads

/-- `do <CMD...>` (R97). -/
def asmDo (i : Instr) (busyReads : Nat) : List Input := asmDoWord (encode i) busyReads

/-- The word of `DADD <sym>, <len>`, `(len << 16) | (sym << 8) | 0x21`, for any length (R96). A length of 256
to 65535 sets RSV, so the word is illegal and the entry is refused (R93, D7); the bits of a longer one that
the 32-bit word cannot hold are lost (DESIGN CHOICE, log 22). -/
def daddWord (x : Byte) (len : Nat) : Word := BitVec.ofNat 32 (len * 2 ^ 16 + x.toNat * 2 ^ 8 + 0x21)

/-- `bufw <a>, "<bytes>"` (R97). -/
def asmBufw : Nat → List Byte → List Input
  | _, [] => []
  | a, v :: vs => asmWr8 a v ++ asmBufw (a + 1) vs

/-- The value of CODE_STAGE[w] for a code: its bits 32w to 32w + 31, left-aligned (R97). -/
def stageWord (c : Bits) (w : Nat) : Word := alignLeft 32 ((c.drop (32 * w)).take 32)

/-- `stage "<code>"` (R97). The eight words hold 256 bits, and later ones are not staged (log 22). -/
def asmStage (c : Bits) : List Input :=
  (List.finRange 8).flatMap (fun w => asmWr32 (.codeStage w) (stageWord c w.val))

/-- `dadd <sym>, "<code>"`, for a code of any length (R97; log 22). -/
def asmDadd (x : Byte) (c : Bits) (busyReads : Nat) : List Input :=
  asmStage c ++ asmDoWord (daddWord x c.length) busyReads

/-- ARG0, ARG1 and ARG2 written, then a command run to its end (R97). -/
def asmWithArgs (a0 a1 a2 : Word) (i : Instr) (busyReads : Nat) : List Input :=
  asmWr32 .arg0 a0 ++ asmWr32 .arg1 a1 ++ asmWr32 .arg2 a2 ++ asmDo i busyReads

/-- `pack <src>, <n>, <dst>` (R97). -/
def asmPack (src n dst : Word) (busyReads : Nat) : List Input := asmWithArgs src n dst .pack busyReads

/-- `unpack <src>, <len>, <dst>` (R97). -/
def asmUnpack (src len dst : Word) (busyReads : Nat) : List Input :=
  asmWithArgs src len dst .unpack busyReads

/-- `clrst` (R97). -/
def asmClrst : List Input := asmWr32 .status 0x0000000E#32

/-- The state with these inputs to come after those it already has. -/
def State.feed (s : State) (is : List Input) : State := { s with inputs := s.inputs ++ is }

end Sys2Proof.Machine
end

