-- ==== Sys2Proof/Safety.lean ====
section
/-! DEFINITION. What holds of a state in a run of HTB, and what a safe run is: the invariants of the
spec (R27, R28, R33, R35 to R37, R85, R112), the frames of commands, and the states a run reaches. -/

namespace Sys2Proof.Machine

/-! ## Invariants -/

/-- BUF is in canonical form and lists bytes of BUF only (R38, R70). -/
abbrev MemInv (s : State) : Prop := Memory.wf s.buf ∧ ∀ c ∈ s.buf, c.1 < s.bufBytes

/-- ERR_CODE is not 0 exactly when STATUS.ERR = 1, ERR_INFO is 0 while it is 0, and the reserved kinds
are never recorded (R27, R28, R200, S13). -/
abbrev ErrInv (s : State) : Prop :=
  s.errCode.isSome = s.err ∧ (s.err = false → s.errInfo = 0#32) ∧
    s.errCode ≠ some .ioError ∧ s.errCode ≠ some .parseError

/-- While a command runs: DONE = 0, LASTCMD is its word, ERR = 1 only if it is SRESET, and the private
copies equal the registers they were taken from (R24, R26, R110, R112, R233). -/
def EngineInv (s : State) : Prop :=
  ∀ e, s.engine = some e →
    s.done = false ∧ s.lastCmd = e.cmd ∧ (s.err = true → e.cmd = sresetWord) ∧ e = s.privateCopies e.cmd

/-- No tree: TREE_VALID = 0, the summary registers 0 and every arena entry empty (R31, R33). -/
abbrev NoTree (s : State) : Prop :=
  s.treeValid = false ∧ s.leafCount = 0#32 ∧ s.nodeCount = 0#32 ∧ s.root = 0#32 ∧
    ∀ i, i < 511 → s.nodeAt i = Node.empty

/-- Entry i is a leaf: LEAF = 1 and no children (R33, R37 item 5). -/
abbrev State.leafAt (s : State) (i : Nat) : Prop :=
  (s.nodeAt i).leaf = true ∧ (s.nodeAt i).left = 0#9 ∧ (s.nodeAt i).right = 0#9

/-- Entry j is an internal node: its children come before it, and its weight is their exact sum (R33, R37
items 3 and 4). -/
abbrev State.internalAt (s : State) (j : Nat) : Prop :=
  (s.nodeAt j).leaf = false ∧ (s.nodeAt j).symbol = 0#8 ∧
    (s.nodeAt j).left.toNat < j ∧ (s.nodeAt j).right.toNat < j ∧
    (s.nodeAt j).weight.toNat =
      (s.nodeAt (s.nodeAt j).left.toNat).weight.toNat + (s.nodeAt (s.nodeAt j).right.toNat).weight.toNat

/-- The child indices of the internal nodes, entries LEAF_COUNT to NODE_COUNT − 1. -/
def State.childList (s : State) : List Nat :=
  ((List.range s.nodeCount.toNat).drop s.leafCount.toNat).flatMap
    (fun j => [(s.nodeAt j).left.toNat, (s.nodeAt j).right.toNat])

/-- A tree of n leaves: entries 0 to n − 1 are leaves in ascending symbol order, entries n to 2n − 2 are
internal nodes and the last is the root, every other node is the child of exactly one, and the entries
past them are empty (R31, R33, R37). -/
abbrev HasTree (s : State) : Prop :=
  s.treeValid = true ∧ 2 ≤ s.leafCount.toNat ∧ s.leafCount.toNat ≤ 256 ∧
    s.nodeCount.toNat = 2 * s.leafCount.toNat - 1 ∧ s.root.toNat = 2 * s.leafCount.toNat - 2 ∧
    (∀ i, i < s.leafCount.toNat → s.leafAt i) ∧
    (∀ i, i < s.leafCount.toNat → 0 < i → (s.nodeAt (i - 1)).symbol.toNat < (s.nodeAt i).symbol.toNat) ∧
    (∀ j, j < s.nodeCount.toNat → s.leafCount.toNat ≤ j → s.internalAt j) ∧
    (∀ i, i < s.root.toNat → s.childList.count i = 1) ∧
    (∀ i, i < 511 → s.nodeCount.toNat ≤ i → s.nodeAt i = Node.empty)

/-- The node arena's invariant (R33, R37). -/
abbrev TreeInv (s : State) : Prop := NoTree s ∨ HasTree s

/-- No code of an entry is a prefix of the code of another entry (R36 item 3). -/
abbrev State.prefixFree (s : State) : Prop :=
  ∀ x ∈ s.dictSymbols, ∀ y ∈ s.dictSymbols, s.code x <+: s.code y → x = y

/-- The dictionary's invariant: DICT_COUNT counts the symbols with an entry (R36 item 1), DICT_ORDER
lists each of them once and reads 0 from DICT_COUNT on (R35, R36 item 2), the codes are prefix-free (R36
item 3), and CODE_BITS is 0 past each code (R35). Item 4 of R36 is the type of CODE_LEN. -/
abbrev DictInv (s : State) : Prop :=
  s.dictCount.toNat = (symbols.filter s.hasEntry).length ∧
    s.dictSymbols.Nodup ∧ (∀ x ∈ symbols, s.hasEntry x = true ↔ x ∈ s.dictSymbols) ∧
    (∀ x ∈ s.dictOrder.toList.drop s.dictCount.toNat, x = 0#8) ∧
    s.prefixFree ∧
    (∀ x ∈ symbols, tableGet s.codeBits x = alignLeft 256 (s.code x))

/-- All of the above. -/
def Inv (s : State) : Prop := MemInv s ∧ ErrInv s ∧ EngineInv s ∧ TreeInv s ∧ DictInv s

/-! ## Paths in the arena -/

/-- The arena entry reached from entry i along a bit string, left on 0 and right on 1; none when the
string goes on past a leaf (R150, R189). -/
def State.follow (s : State) : Nat → Bits → Option Nat
  | i, [] => some i
  | i, b :: c =>
    if (s.nodeAt i).leaf then none
    else State.follow s (if b then (s.nodeAt i).right.toNat else (s.nodeAt i).left.toNat) c

/-- One code lies left of another in the drawn tree: they part at some bit, the first on 0 (R151). -/
def leftOf (c d : Bits) : Prop := ∃ p c' d', c = p ++ false :: c' ∧ d = p ++ true :: d'

/-! ## Frames -/

/-- The operand registers are the same (R21, R22). -/
abbrev SameOperands (s t : State) : Prop :=
  t.arg0 = s.arg0 ∧ t.arg1 = s.arg1 ∧ t.arg2 = s.arg2 ∧ t.codeStage = s.codeStage

/-- The result registers are the same (R29). -/
abbrev SameResults (s t : State) : Prop := t.res0 = s.res0 ∧ t.res1 = s.res1 ∧ t.res2 = s.res2

/-- The node arena, its summary registers and TREE_VALID are the same (R24, R31, R33). -/
abbrev SameTree (s t : State) : Prop :=
  t.node = s.node ∧ t.leafCount = s.leafCount ∧ t.nodeCount = s.nodeCount ∧ t.root = s.root ∧
    t.treeValid = s.treeValid

/-- The dictionary tables and DICT_COUNT are the same (R31, R35). -/
abbrev SameDictionary (s t : State) : Prop :=
  t.codeLen = s.codeLen ∧ t.codeBits = s.codeBits ∧ t.dictOrder = s.dictOrder ∧ t.dictCount = s.dictCount

/-- Every BUF byte reads as before, an unwritten one as unwritten (R38, R85). -/
def SameBuf (s t : State) : Prop := ∀ a, Memory.read t.buf a = Memory.read s.buf a

/-- What no command but SRESET touches: the operand registers, IRQ_EN, LASTCMD, REJ, BUF_BYTES, and the
model's own fields (R21, R22, R25, R26, R111, R113, R114). -/
abbrev SameShell (s t : State) : Prop :=
  SameOperands s t ∧ t.irqEn = s.irqEn ∧ t.lastCmd = s.lastCmd ∧ t.rej = s.rej ∧ t.bufLog = s.bufLog ∧
    t.inputs = s.inputs ∧ t.readData = s.readData ∧ t.draws = s.draws

/-- What a failed command leaves: the error recorded, ERR and DONE set, BUSY clear, and all else as the
command found it (R114, R204). -/
abbrev Failed (s : State) (k : ErrKind) (info : Word) : State :=
  { s with errCode := some k, errInfo := info, err := true, done := true, engine := none }

/-- The error kinds a command can raise (R201). -/
def raisable : Instr → List ErrKind
  | .nop => []
  | .sreset => []
  | .wclear => []
  | .build => [.invalidInput]
  | .gen => [.invalidInput]
  | .dclear => []
  | .dadd _ _ => [.invalidInput]
  | .pack => [.invalidInput, .unknownSymbol, .rangeError]
  | .unpack => [.invalidInput, .decodeError, .rangeError]

/-! ## Runs -/

/-- The states of runs from hardware reset: any BUF_BYTES and any inputs (R6, R7, R230). -/
inductive Reachable : State → Prop where
  | reset (k : Fin 7) (is : List Input) : Reachable { State.reset with bufLog := k, inputs := is }
  | step {s t : State} : Reachable s → step s = .next t → Reachable t

/-- A run from s is safe when it never stops: no unwritten BUF byte is read and no hazard of R233
occurs. -/
def SafeRun (s : State) : Prop := ∀ k f, Host.Core.run core k s ≠ .fault f

end Sys2Proof.Machine
end

