-- ==== Sys2Proof/Certificates/Slice0/Obligations.lean ====
section
/-! DEFINITION. The statements about HTB for the provers. -/

open Sys2Proof
open Sys2Proof.Machine

/-! ## Encoding -/

/-- R90 to R92: decoding a word gives a command exactly when the word is that command's encoding, so no
operand bit is dropped and no two words share a command. -/
def Obligations.DecodeIffEncode : Prop :=
  ∀ (i : Instr) (w : Word), decode w = .ok i ↔ w = encode i

/-- R93, R94: the decoder rejects a word exactly when OPC is not in the map or an unused field is not 0;
an OPC outside the map is rejected as reserved, and any other illegal word as one with an unused field. -/
def Obligations.IllegalWordsAreRejected : Prop :=
  ∀ w : Word,
    (opcodeListed w = false ↔ decode w = .error (.reservedOpcode (opcField w))) ∧
    (opcodeListed w = true ∧ unusedFieldsZero w = false ↔
      decode w = .error (.unusedFieldNotZero (opcField w)))

/-- Words written out from R90, R91 and spec 95 section 8: one of each family, and the spec's example of
an illegal word (R93). -/
def Obligations.SpecWordsDecode : Prop :=
  decode 0x00000000#32 = .ok .nop ∧ decode 0x00000001#32 = .ok .sreset ∧
    decode 0x00000010#32 = .ok .build ∧ decode 0x00000011#32 = .ok .gen ∧
    decode 0x00034321#32 = .ok (.dadd 0x43#8 3#8) ∧ decode 0x00000030#32 = .ok .pack ∧
    decode 0x00000031#32 = .ok .unpack ∧
    decode 0x00000110#32 = .error (.unusedFieldNotZero 0x10#8)

/-- R40: an aligned offset of the register region reaches a register exactly when the map places that
register there. -/
def Obligations.RegisterMapMatchesOffsets : Prop :=
  ∀ (off : Nat) (r : Reg), off < 0x10000 → off % 4 = 0 → (regAt off = some r ↔ off = r.offset)

/-! ## The life of a command -/

/-- A step with the completion of the running command next in line runs the command its word decodes to, at
the state with that input gone; so does a step with no input left; and a step with a host access next in
line serves it. The place of the completion among the inputs, and that it comes when none is left, are the
model's choice (log 1). -/
def Obligations.StepRunsDecodedCommand : Prop :=
  ∀ s : State,
    (∀ (e : Engine) (i : Instr), s.engine = some e → decode e.cmd = .ok i →
      (∀ rest, s.inputs = .complete :: rest → step s = exec i { s with inputs := rest }) ∧
      (s.inputs = [] → step s = exec i s)) ∧
    (∀ off size rest, s.inputs = .access (.read off size) :: rest →
      step s = hostRead off size { s with inputs := rest }) ∧
    (∀ off size v rest, s.inputs = .access (.write off size v) :: rest →
      step s = hostWrite off size v { s with inputs := rest })

/-- R110 to R112: a CMD write. While BUSY = 1, or while ERR = 1 unless the word is SRESET's, it sets REJ and
changes nothing else; otherwise the word is recorded, DONE falls, and the engine takes its copies. -/
def Obligations.CmdWriteAcceptsOrRejects : Prop :=
  ∀ (s : State) (w : Word),
    hostWrite 0x00010#17 .word w s =
      if s.busy = true then .next { s with rej := true }
      else if s.err = true ∧ w ≠ 0x00000001#32 then .next { s with rej := true }
      else .next { s with
        lastCmd := w, done := false,
        engine := some ⟨w, s.arg0, s.arg1, s.arg2, s.codeStage⟩ }

/-- R115: an accepted word that R93 calls illegal raises IllegalCommand with the word itself, and changes
nothing but ERR_CODE, ERR_INFO and STATUS: in a step with its completion next in line, and in one with no
input left. The place of the completion among the inputs, and that it comes when none is left, are the
model's choice (log 1), so the clause at no input says nothing of a host that acts first. -/
def Obligations.IllegalCommandRaises : Prop :=
  ∀ (s : State) (e : Engine), s.engine = some e → legalWord e.cmd = false →
    (∀ rest, s.inputs = .complete :: rest →
      step s = .next (Failed { s with inputs := rest } .illegalCommand e.cmd)) ∧
    (s.inputs = [] → step s = .next (Failed s .illegalCommand e.cmd))

/-- R113, R114, R237: the engine's turn ends the running command, unless the model faults on an unwritten
BUF byte (R85): afterwards BUSY = 0 and DONE = 1. The fault is what R85 asks of a model (log 14). -/
def Obligations.EngineTurnEndsCommand : Prop :=
  ∀ s : State, s.busy = true →
    (∃ t, engineStep s = .next t ∧ t.busy = false ∧ t.done = true) ∨
    (∃ a, engineStep s = .fault (.unwrittenBufByte a) ∧ Memory.read s.buf a = none)

/-- R114, R204: a command that records an error has changed nothing but ERR_CODE, ERR_INFO and STATUS. -/
def Obligations.FailedCommandChangesNothingElse : Prop :=
  ∀ (i : Instr) (s t : State), exec i s = .next t → s.errCode = none → t.errCode ≠ none →
    ∃ k info, t = Failed s k info

/-- R201: which command can raise which error. -/
def Obligations.CommandsRaiseOnlyTheirErrors : Prop :=
  ∀ (i : Instr) (s t : State) (k : ErrKind), exec i s = .next t → s.errCode = none →
    t.errCode = some k → k ∈ raisable i

/-! ## Control commands and table clears -/

/-- R116: NOP completes and changes nothing but DONE and BUSY. -/
def Obligations.NopCompletes : Prop :=
  ∀ s : State, exec .nop s = .next { s with done := true, engine := none }

/-- R117: SRESET completes with every item of R41 at its reset value, STATUS = DONE, LASTCMD = 1, and BUF as
it was. The fields inputs, readData, draws and bufLog are the model's own (log 1, 3, 4, 12). -/
def Obligations.SresetCompletes : Prop :=
  ∀ s : State, exec .sreset s = .next
    { State.reset with
      lastCmd := 0x00000001#32, done := true, buf := s.buf, bufLog := s.bufLog, inputs := s.inputs,
      readData := s.readData, draws := s.draws }

/-- R130: WCLEAR completes with every weight 0 and nothing else changed but DONE and BUSY. -/
def Obligations.WclearCompletes : Prop :=
  ∀ s : State, ∃ t, exec .wclear s = .next t ∧ (∀ x, tableGet t.weight x = 0#32) ∧
    t = { s with weight := t.weight, done := true, engine := none }

/-- R153: DCLEAR completes with an empty dictionary and nothing else changed but DONE and BUSY. -/
def Obligations.DclearCompletes : Prop :=
  ∀ s : State, ∃ t, exec .dclear s = .next t ∧
    (∀ x, tableGet t.codeLen x = 0#8 ∧ tableGet t.codeBits x = 0#256 ∧ tableGet t.dictOrder x = 0#8) ∧
    t = { s with
      codeLen := t.codeLen, codeBits := t.codeBits, dictOrder := t.dictOrder, dictCount := 0#32,
      done := true, engine := none }

/-! ## The tree builder -/

/-- R131: the leaf set lists the symbols with a non-zero weight, each once, in ascending order. -/
def Obligations.LeafSetIsNonzeroAscending : Prop :=
  ∀ weight : Vector Word 256,
    (∀ x, x ∈ leafSet weight ↔ tableGet weight x ≠ 0#32) ∧
    (leafSet weight).Pairwise (fun x y => x.toNat < y.toNat)

/-- R132: the selection picks the element of the forest that precedes every other one by weight, then by
arena index. -/
def Obligations.LeastPrecedesAllOthers : Prop :=
  ∀ (arena : List Node) (forest : List Nat) (a : Nat), forest.Nodup →
    (least arena forest = some a ↔ a ∈ forest ∧ ∀ b ∈ forest, b ≠ a →
      (arenaAt arena a).weight.toNat < (arenaAt arena b).weight.toNat ∨
      ((arenaAt arena a).weight.toNat = (arenaAt arena b).weight.toNat ∧ a < b))

/-- R133: BUILD with fewer than two non-zero weights raises InvalidInput with 0x01000000 | n. -/
def Obligations.BuildRefusesFewerThanTwoLeaves : Prop :=
  ∀ s : State, (leafSet s.weight).length < 2 →
    exec .build s = .next (Failed s .invalidInput (0x01000000#32 ||| BitVec.ofNat 32 (leafSet s.weight).length))

/-- R133: BUILD with n ≥ 2 non-zero weights completes: n leaves in ascending symbol order with their
weights, 2n − 1 nodes, the root at 2n − 2, empty entries after it, TREE_VALID = 1, and nothing else
changed. -/
def Obligations.BuildCompletes : Prop :=
  ∀ s : State, 2 ≤ (leafSet s.weight).length →
    ∃ t, exec .build s = .next t ∧
      t.leafCount = BitVec.ofNat 32 (leafSet s.weight).length ∧
      t.nodeCount = BitVec.ofNat 32 (2 * (leafSet s.weight).length - 1) ∧
      t.root = BitVec.ofNat 32 (2 * (leafSet s.weight).length - 2) ∧
      (∀ i (h : i < (leafSet s.weight).length),
        t.nodeAt i =
          ⟨(tableGet s.weight (leafSet s.weight)[i]).setWidth 40, true, (leafSet s.weight)[i], 0#9, 0#9⟩) ∧
      (∀ i, 2 * (leafSet s.weight).length - 1 ≤ i → t.nodeAt i = Node.empty) ∧
      t = { s with
        node := t.node, leafCount := t.leafCount, nodeCount := t.nodeCount, root := t.root,
        treeValid := true, done := true, engine := none }

/-- R135: the properties of every successful BUILD: weight conservation, the leaves are the leaf set with
their weights, a full tree, every leaf at depth 1 to n − 1, and in each merge the left weight at most the
right one. -/
def Obligations.BuildTreeProperties : Prop :=
  ∀ s t : State, 2 ≤ (leafSet s.weight).length → exec .build s = .next t →
    HasTree t ∧
    (t.nodeAt t.root.toNat).weight.toNat = ((symbols.map (fun x => (tableGet s.weight x).toNat))).sum ∧
    ((List.range t.leafCount.toNat).map (fun i => (t.nodeAt i).symbol)) = leafSet s.weight ∧
    (∀ i, i < t.leafCount.toNat →
      (t.nodeAt i).weight.toNat = (tableGet s.weight (t.nodeAt i).symbol).toNat) ∧
    (∀ c j, t.follow t.root.toNat c = some j → (t.nodeAt j).leaf = true →
      1 ≤ c.length ∧ c.length ≤ (leafSet s.weight).length - 1) ∧
    (∀ j, j < t.nodeCount.toNat → t.leafCount.toNat ≤ j →
      (t.nodeAt (t.nodeAt j).left.toNat).weight.toNat ≤ (t.nodeAt (t.nodeAt j).right.toNat).weight.toNat)

/-- R134: BUILD makes the same arena as HFC's literal loop, a stable sort by weight at the start of every
iteration; and every entry of the node arena that a successful BUILD leaves in the state, internal nodes
included, is that loop's. -/
def Obligations.BuildIsStableSortLoop : Prop :=
  (∀ weight : Vector Word 256, buildArena weight = stableArena weight) ∧
  (∀ s t : State, 2 ≤ (leafSet s.weight).length → exec .build s = .next t →
    ∀ i, t.nodeAt i = arenaAt (stableArena s.weight) i)

/-! ## The code generator and the dictionary load -/

/-- R150: GEN without a tree raises InvalidInput with 0x02000000. -/
def Obligations.GenRefusesMissingTree : Prop :=
  ∀ s : State, s.treeValid = false →
    exec .gen s = .next (Failed s .invalidInput 0x02000000#32)

/-- R150: GEN with a tree completes; it writes the dictionary tables and DICT_COUNT, and changes nothing
else but DONE and BUSY. In every state with a tree of R37, DICT_COUNT becomes LEAF_COUNT. -/
def Obligations.GenCompletes : Prop :=
  ∀ s : State, s.treeValid = true →
    ∃ t, exec .gen s = .next t ∧ (HasTree s → t.dictCount = s.leafCount) ∧
      t = { s with
        codeLen := t.codeLen, codeBits := t.codeBits, dictOrder := t.dictOrder, dictCount := t.dictCount,
        done := true, engine := none }

/-- R150: after GEN, a symbol has the code c exactly when c leads from the root to its leaf, 0 going left
and 1 going right. -/
def Obligations.GenCodesAreRootPaths : Prop :=
  ∀ s t : State, HasTree s → exec .gen s = .next t → ∀ (x : Byte) (c : Bits),
    (t.hasEntry x = true ∧ t.code x = c) ↔
      ∃ j, s.follow s.root.toNat c = some j ∧ (s.nodeAt j).leaf = true ∧ (s.nodeAt j).symbol = x

/-- R151: the dictionary order is the order in which a left-first walk meets the leaves, left to right in
the drawn tree. -/
def Obligations.GenOrderIsLeftToRight : Prop :=
  ∀ s t : State, HasTree s → exec .gen s = .next t → (t.dictSymbols.map t.code).Pairwise leftOf

/-- R152: a GEN dictionary has exactly one entry per leaf, is prefix-free, and is complete: every infinite
bit string starts with exactly one code. -/
def Obligations.GenDictionaryIsComplete : Prop :=
  ∀ s t : State, HasTree s → exec .gen s = .next t →
    t.dictSymbols.Perm ((List.range s.leafCount.toNat).map (fun i => (s.nodeAt i).symbol)) ∧
    t.prefixFree ∧
    (∀ f : Nat → Bool, ∃ x, t.hasEntry x = true ∧ t.code x = (List.range (t.code x).length).map f ∧
      ∀ y, t.hasEntry y = true → t.code y = (List.range (t.code y).length).map f → y = x)

/-- R154, R205: DADD's errors in the order of its checks: an empty code, a symbol that has an entry, and a
code that is a prefix of an existing one or has one as a prefix, with the first such symbol in dictionary
order. -/
def Obligations.DaddRefusesBadEntries : Prop :=
  ∀ (s : State) (sym len : Byte),
    (len = 0#8 → exec (.dadd sym len) s = .next (Failed s .invalidInput (0x04000000#32 ||| (sym.setWidth 32 <<< 8)))) ∧
    (len ≠ 0#8 → tableGet s.codeLen sym ≠ 0#8 → exec (.dadd sym len) s = .next (Failed s .invalidInput (0x05000000#32 ||| (sym.setWidth 32 <<< 8)))) ∧
    (∀ k (h : k < s.dictSymbols.length), len ≠ 0#8 → tableGet s.codeLen sym = 0#8 →
      (s.code s.dictSymbols[k] <+: s.stagedCode len ∨ s.stagedCode len <+: s.code s.dictSymbols[k]) →
      (∀ x ∈ s.dictSymbols.take k,
        ¬ s.code x <+: s.stagedCode len ∧ ¬ s.stagedCode len <+: s.code x) →
      exec (.dadd sym len) s = .next (Failed s .invalidInput (0x06000000#32 ||| (sym.setWidth 32 <<< 8) ||| (s.dictSymbols[k]).setWidth 32)))

/-- R154: DADD of a new symbol with a non-empty code that conflicts with no entry completes: the symbol gets
the first LEN staged bits as its code, zeros after them, and the last place in dictionary order; no other
entry and nothing else changes. -/
def Obligations.DaddAddsEntry : Prop :=
  ∀ (s : State) (sym len : Byte), len ≠ 0#8 → tableGet s.codeLen sym = 0#8 → s.dictCount.toNat < 256 →
    (∀ x ∈ s.dictSymbols, ¬ s.code x <+: s.stagedCode len ∧ ¬ s.stagedCode len <+: s.code x) →
    ∃ t, exec (.dadd sym len) s = .next t ∧
      tableGet t.codeLen sym = len ∧
      (∀ i, i < len.toNat → (tableGet t.codeBits sym).getMsbD i =
        (s.operands.stage[i / 32]!).getLsbD (31 - i % 32)) ∧
      (∀ i, len.toNat ≤ i → (tableGet t.codeBits sym).getMsbD i = false) ∧
      (∀ x, x ≠ sym → tableGet t.codeLen x = tableGet s.codeLen x ∧
        tableGet t.codeBits x = tableGet s.codeBits x) ∧
      t.dictSymbols = s.dictSymbols ++ [sym] ∧ t.dictCount = s.dictCount + 1#32 ∧
      t = { s with
        codeLen := t.codeLen, codeBits := t.codeBits, dictOrder := t.dictOrder, dictCount := t.dictCount,
        done := true, engine := none }

/-! ## The bit packer -/

/-- R170, R205: PACK's errors in the order of its checks: the source range, the empty dictionary, the first
symbol with no entry (the bytes up to it are written), then, with n written symbols xs that all have entries
and payload length ⌈T/8⌉ + 1, the destination range and the overlap. -/
def Obligations.PackRefusesBadOperands : Prop :=
  ∀ s : State,
    (s.bufBytes < s.argSrc + s.argLen → exec .pack s = .next (Failed s .rangeError 0#32)) ∧
    (s.argSrc + s.argLen ≤ s.bufBytes → s.dictCount = 0#32 →
      exec .pack s = .next (Failed s .invalidInput 0x03000000#32)) ∧
    (s.argSrc + s.argLen ≤ s.bufBytes → s.dictCount ≠ 0#32 →
      ∀ i x, i < s.argLen →
        (∀ j, j < i → ∃ y, Memory.read s.buf (s.argSrc + j) = some y ∧ tableGet s.codeLen y ≠ 0#8) →
        Memory.read s.buf (s.argSrc + i) = some x → tableGet s.codeLen x = 0#8 →
        exec .pack s = .next (Failed s .unknownSymbol ((x.setWidth 32 <<< 24) ||| BitVec.ofNat 32 i))) ∧
    (s.argSrc + s.argLen ≤ s.bufBytes → s.dictCount ≠ 0#32 →
      ∀ xs : List Byte, xs.length = s.argLen →
        (∀ i (h : i < xs.length),
          Memory.read s.buf (s.argSrc + i) = some xs[i] ∧ tableGet s.codeLen xs[i] ≠ 0#8) →
        (s.bufBytes < s.argDst + (((xs.flatMap s.code).length + 7) / 8 + 1) →
          exec .pack s = .next (Failed s .rangeError 1#32)) ∧
        (s.argDst + (((xs.flatMap s.code).length + 7) / 8 + 1) ≤ s.bufBytes → 0 < s.argLen →
          s.argSrc < s.argDst + (((xs.flatMap s.code).length + 7) / 8 + 1) →
          s.argDst < s.argSrc + s.argLen → exec .pack s = .next (Failed s .rangeError 2#32)))

/-- R170, R171: PACK of n written symbols with entries, whose payload fits and does not overlap them,
completes: with B the codes one after the other, T = |B| and k = ⌈T/8⌉, data byte g holds bits 8g to 8g + 7
of B, the first the most significant and zeros past T; the metadata byte follows; RES0 to RES2 are k + 1, T
and M; and nothing else changes. -/
def Obligations.PackStoresPayload : Prop :=
  ∀ (s : State) (xs : List Byte) (k m : Nat),
    xs.length = s.argLen → s.argSrc + s.argLen ≤ s.bufBytes → s.dictCount ≠ 0#32 →
    (∀ i (h : i < xs.length), Memory.read s.buf (s.argSrc + i) = some xs[i] ∧ s.hasEntry xs[i] = true) →
    8 * k < (xs.flatMap s.code).length + 8 → (xs.flatMap s.code).length ≤ 8 * k →
    m = (if (xs.flatMap s.code).length = 0 then 0 else (xs.flatMap s.code).length - 8 * (k - 1)) →
    s.argDst + (k + 1) ≤ s.bufBytes →
    ¬ (0 < s.argLen ∧ s.argSrc < s.argDst + (k + 1) ∧ s.argDst < s.argSrc + s.argLen) →
    ∃ t, exec .pack s = .next t ∧
      (∀ g, g < k → ∃ d, Memory.read t.buf (s.argDst + g) = some d ∧
        ∀ j, j < 8 → d.getLsbD (7 - j) = (xs.flatMap s.code).getD (8 * g + j) false) ∧
      Memory.read t.buf (s.argDst + k) = some (BitVec.ofNat 8 m) ∧
      (∀ a, a < s.argDst ∨ s.argDst + (k + 1) ≤ a → Memory.read t.buf a = Memory.read s.buf a) ∧
      t.res0 = BitVec.ofNat 32 (k + 1) ∧ t.res1 = BitVec.ofNat 32 (xs.flatMap s.code).length ∧
      t.res2 = BitVec.ofNat 32 m ∧
      t = { s with buf := t.buf, res0 := t.res0, res1 := t.res1, res2 := t.res2, done := true, engine := none }

/-- PACK's frame: the bytes it stores are the payload's, from ARG2 on, where it commits, and none
where it raises; no table, weight, tree or shell register changes. On a commit
RES0 to RES2 are PackStoresPayload's matter (R29, R113, R114, R170). -/
def Obligations.PackFrame : Prop :=
  ∀ s t : State, exec .pack s = .next t →
    SameShell s t ∧ t.weight = s.weight ∧ SameTree s t ∧ SameDictionary s t ∧ t.engine = none ∧
    t.done = true ∧
    ((∃ k info, t = Failed s k info) ∨
      (t.err = s.err ∧ t.errCode = s.errCode ∧ t.errInfo = s.errInfo ∧
        ∃ xs, packSymbols s s.argLen s.argSrc 0 = .ok xs ∧
          ∀ a, a < s.argDst ∨ s.argDst + (payload (codeString s xs)).length ≤ a →
            Memory.read t.buf a = Memory.read s.buf a))

/-! ## The bit unpacker -/

/-- R185, R186, R205: UNPACK's errors up to the decode, in the order of its checks: the source range, the
empty dictionary, no metadata byte, and a written metadata byte that is illegal for the number of data
bytes. -/
def Obligations.UnpackRefusesBadOperands : Prop :=
  ∀ s : State,
    (s.bufBytes < s.argSrc + s.argLen → exec .unpack s = .next (Failed s .rangeError 0#32)) ∧
    (s.argSrc + s.argLen ≤ s.bufBytes → s.dictCount = 0#32 →
      exec .unpack s = .next (Failed s .invalidInput 0x03000000#32)) ∧
    (s.argSrc + s.argLen ≤ s.bufBytes → s.dictCount ≠ 0#32 → s.argLen = 0 →
      exec .unpack s = .next (Failed s .decodeError 0x80000000#32)) ∧
    (s.argSrc + s.argLen ≤ s.bufBytes → s.dictCount ≠ 0#32 → s.argLen ≠ 0 →
      ∀ m : Byte, Memory.read s.buf (s.argSrc + (s.argLen - 1)) = some m →
        ¬ ((s.argLen = 1 ∧ m = 0#8) ∨ (2 ≤ s.argLen ∧ 1 ≤ m.toNat ∧ m.toNat ≤ 8)) →
        exec .unpack s = .next (Failed s .decodeError (0x40000000#32 ||| m.setWidth 32)))

/-- R185, R187, R188: with a legal payload whose bytes are written and whose meaningful bits T are the codes
of the symbols xs one after the other, UNPACK completes where xs fits at ARG2 without overlapping the
payload: it stores xs, sets RES0 to RES2 to |xs|, |T| and M, and changes nothing else. Where xs does not fit
it raises RangeError 1, and where it overlaps RangeError 2. -/
def Obligations.UnpackStoresDecodedSymbols : Prop :=
  ∀ (s : State) (data xs : List Byte) (m : Byte),
    DictInv s → s.argSrc + s.argLen ≤ s.bufBytes → s.dictCount ≠ 0#32 → data.length + 1 = s.argLen →
    ((data = [] ∧ m = 0#8) ∨ (data ≠ [] ∧ 1 ≤ m.toNat ∧ m.toNat ≤ 8)) →
    (∀ i (h : i < data.length), Memory.read s.buf (s.argSrc + i) = some data[i]) →
    Memory.read s.buf (s.argSrc + data.length) = some m →
    (∀ x ∈ xs, s.hasEntry x = true) →
    xs.flatMap s.code = (data.flatMap bitsOf).take (8 * (data.length - 1) + m.toNat) →
    (s.bufBytes < s.argDst + xs.length → exec .unpack s = .next (Failed s .rangeError 1#32)) ∧
    (s.argDst + xs.length ≤ s.bufBytes →
      (0 < xs.length ∧ s.argSrc < s.argDst + xs.length ∧ s.argDst < s.argSrc + s.argLen) →
      exec .unpack s = .next (Failed s .rangeError 2#32)) ∧
    (s.argDst + xs.length ≤ s.bufBytes →
      ¬ (0 < xs.length ∧ s.argSrc < s.argDst + xs.length ∧ s.argDst < s.argSrc + s.argLen) →
      ∃ t, exec .unpack s = .next t ∧
        (∀ i (h : i < xs.length), Memory.read t.buf (s.argDst + i) = some xs[i]) ∧
        (∀ a, a < s.argDst ∨ s.argDst + xs.length ≤ a → Memory.read t.buf a = Memory.read s.buf a) ∧
        t.res0 = BitVec.ofNat 32 xs.length ∧ t.res1 = BitVec.ofNat 32 (xs.flatMap s.code).length ∧
        t.res2 = m.setWidth 32 ∧
        t = { s with
          buf := t.buf, res0 := t.res0, res1 := t.res1, res2 := t.res2, done := true, engine := none })

/-- R185, R188: where the meaningful bits are the codes of some symbols and then bits at which no code
stands, UNPACK raises DecodeError with that bit position, whatever ARG2 is. -/
def Obligations.UnpackReportsFirstUnmatchedBit : Prop :=
  ∀ (s : State) (data xs : List Byte) (m : Byte) (rest : Bits),
    DictInv s → s.argSrc + s.argLen ≤ s.bufBytes → s.dictCount ≠ 0#32 → data.length + 1 = s.argLen →
    data ≠ [] → 1 ≤ m.toNat → m.toNat ≤ 8 →
    (∀ i (h : i < data.length), Memory.read s.buf (s.argSrc + i) = some data[i]) →
    Memory.read s.buf (s.argSrc + data.length) = some m →
    (∀ x ∈ xs, s.hasEntry x = true) → rest ≠ [] → (∀ x, s.hasEntry x = true → ¬ s.code x <+: rest) →
    xs.flatMap s.code ++ rest = (data.flatMap bitsOf).take (8 * (data.length - 1) + m.toNat) →
    exec .unpack s = .next (Failed s .decodeError (BitVec.ofNat 32 (xs.flatMap s.code).length))

/-- UNPACK's frame: the bytes it stores are the decoded symbols, from ARG2 on, where it commits, and none
where it raises; no table, weight, tree or shell register changes. On a commit
RES0 to RES2 are UnpackStoresDecodedSymbols' matter (R29, R113, R114, R185). -/
def Obligations.UnpackFrame : Prop :=
  ∀ s t : State, exec .unpack s = .next t →
    SameShell s t ∧ t.weight = s.weight ∧ SameTree s t ∧ SameDictionary s t ∧ t.engine = none ∧
    t.done = true ∧
    ((∃ k info, t = Failed s k info) ∨
      (t.err = s.err ∧ t.errCode = s.errCode ∧ t.errInfo = s.errInfo ∧
        ∃ data m xs, s.bufReadList s.argSrc (s.argLen - 1) = .ok data ∧
          Memory.read s.buf (s.argSrc + (s.argLen - 1)) = some m ∧
          decodeAll s (meaningfulBits data m.toNat) = .ok xs ∧
          ∀ a, a < s.argDst ∨ s.argDst + xs.length ≤ a → Memory.read t.buf a = Memory.read s.buf a))

/-- R189: with a prefix-free dictionary, the bit-by-bit walk down the prefix tree finds the same symbol as
the exact match, or finds none with it. -/
def Obligations.PrefixWalkEqualsMatch : Prop :=
  ∀ (s : State) (rest : Bits), DictInv s → prefixWalk s [] rest = matchCode s rest

/-- R191: a PACK of symbols that succeeds, then an UNPACK of its payload with the dictionary unchanged. The
UNPACK never fails with DecodeError: it writes exactly the packed symbols with RES0 their number, or, where
they do not fit at its destination or overlap the payload, raises RangeError. -/
def Obligations.UnpackInvertsPack : Prop :=
  ∀ s t u : State, DictInv s → s.errCode = none → exec .pack s = .next t → t.errCode = none →
    u.buf = t.buf → u.bufLog = s.bufLog → SameDictionary s u → u.argSrc = s.argDst →
    u.argLen = t.res0.toNat →
    ∃ v, exec .unpack u = .next v ∧
      ((∃ info, v = Failed u .rangeError info) ∧
          (u.bufBytes < u.argDst + s.argLen ∨
            (0 < s.argLen ∧ u.argSrc < u.argDst + s.argLen ∧ u.argDst < u.argSrc + u.argLen)) ∨
        v.errCode = u.errCode ∧ v.res0 = BitVec.ofNat 32 s.argLen ∧
          ∀ i, i < s.argLen → Memory.read v.buf (u.argDst + i) = Memory.read s.buf (s.argSrc + i))

/-! ## Frames of the commands -/

/-- R21, R22, R25, R26: no command but SRESET changes the operand registers, IRQ_EN, LASTCMD or REJ; every
command that answers ends with BUSY = 0 and DONE = 1, and leaves ERR, ERR_CODE and ERR_INFO as they are
(R113), or sets ERR and a code other than 0 (R114). -/
def Obligations.CommandsKeepShell : Prop :=
  ∀ (i : Instr) (s t : State), i ≠ .sreset → exec i s = .next t →
    SameShell s t ∧ t.engine = none ∧ t.done = true ∧
    ((t.err = s.err ∧ t.errCode = s.errCode ∧ t.errInfo = s.errInfo) ∨
      (t.err = true ∧ t.errCode ≠ none))

/-- R29, R38: a command other than PACK and UNPACK stores nothing in BUF, SRESET included, and leaves RES0
to RES2 as they are, SRESET aside. -/
def Obligations.OnlyPackUnpackWriteBuf : Prop :=
  ∀ (i : Instr) (s t : State), i ≠ .pack → i ≠ .unpack → exec i s = .next t →
    SameBuf s t ∧ (i ≠ .sreset → SameResults s t)

/-- R32, R33, R35: which command writes which table: the weights only WCLEAR and SRESET, the node arena,
its summary registers and TREE_VALID only BUILD and SRESET, and the dictionary only GEN, DCLEAR, DADD and
SRESET. -/
def Obligations.CommandsKeepOtherTables : Prop :=
  ∀ (i : Instr) (s t : State), exec i s = .next t →
    (i ≠ .wclear → i ≠ .sreset → t.weight = s.weight) ∧
    (i ≠ .build → i ≠ .sreset → SameTree s t) ∧
    (i ≠ .gen → i ≠ .dclear → (∀ sym len, i ≠ .dadd sym len) → i ≠ .sreset → SameDictionary s t)

/-! ## The host's side -/

/-- R24: a STATUS write clears DONE, ERR and REJ where its bits 1, 2 and 3 are set, ERR_CODE and ERR_INFO
with ERR, and nothing else, at any time. -/
def Obligations.StatusWriteClears : Prop :=
  ∀ (s : State) (v : Word), ∃ t, hostWrite 0x00008#17 .word v s = .next t ∧
    t.done = (if v.getLsbD 1 = true then false else s.done) ∧
    t.err = (if v.getLsbD 2 = true then false else s.err) ∧
    t.errCode = (if v.getLsbD 2 = true then none else s.errCode) ∧
    t.errInfo = (if v.getLsbD 2 = true then 0#32 else s.errInfo) ∧
    t.rej = (if v.getLsbD 3 = true then false else s.rej) ∧
    t = { s with done := t.done, err := t.err, errCode := t.errCode, errInfo := t.errInfo, rej := t.rej }

/-- R24, R25, R208: the interrupt line as a function of the words the host reads from STATUS and IRQ_EN. -/
def Obligations.IrqFollowsStatusAndEnable : Prop :=
  ∀ s : State, s.irq =
    (((s.readReg .status).getLsbD 1 && (s.readReg .irqEn).getLsbD 0) ||
      (((s.readReg .status).getLsbD 2 || (s.readReg .status).getLsbD 3) && (s.readReg .irqEn).getLsbD 1))

/-- R71, R77, R234: a host read that answers changes nothing but the value it returns and the model's count
of free draws; reads with BUSY = 0 draw nothing; and with BUSY = 0 a 32-bit read of a register answers its
word. The draw count is the model's own field (log 4). -/
def Obligations.ReadsHaveNoSideEffect : Prop :=
  (∀ (s t : State) (off : BitVec 17) (size : AccessSize), hostRead off size s = .next t →
    t = { s with readData := t.readData, draws := t.draws } ∧ (s.busy = false → t.draws = s.draws)) ∧
  (∀ (s : State) (r : Reg), s.busy = false →
    hostRead r.busOffset .word s = .next { s with readData := s.readReg r })

/-- R71, R72, R77: host accesses to BUF with BUSY = 0. A read of a written byte answers it, and a read of an
aligned word of written bytes answers them with the one at the lowest offset in bits 7:0. A byte write
stores bits 7:0 of its value at its offset; a word write at an aligned offset is read back whole, and its
bytes are read one by one, the least significant at the lowest offset. No other byte and nothing else
changes. That a byte access uses bits 7:0 is deduced (log 20). -/
def Obligations.BufWordsAreLittleEndian : Prop :=
  ∀ s : State, s.busy = false →
    (∀ a b, a < s.bufBytes → Memory.read s.buf a = some b →
      hostRead (bufOffset a) .byte s = .next { s with readData := b.setWidth 32 }) ∧
    (∀ (a : Nat) (b0 b1 b2 b3 : Byte), a % 4 = 0 → a + 4 ≤ s.bufBytes → Memory.read s.buf a = some b0 →
      Memory.read s.buf (a + 1) = some b1 → Memory.read s.buf (a + 2) = some b2 →
      Memory.read s.buf (a + 3) = some b3 →
      hostRead (bufOffset a) .word s = .next { s with
        readData := b0.setWidth 32 ||| (b1.setWidth 32 <<< 8) ||| (b2.setWidth 32 <<< 16) |||
          (b3.setWidth 32 <<< 24) }) ∧
    (∀ (a : Nat) (v : Word), a < s.bufBytes →
      ∃ t, hostWrite (bufOffset a) .byte v s = .next t ∧
        Memory.read t.buf a = some (v.extractLsb' 0 8) ∧
        (∀ b, b ≠ a → Memory.read t.buf b = Memory.read s.buf b) ∧ t = { s with buf := t.buf }) ∧
    (∀ (a : Nat) (v : Word), a % 4 = 0 → a + 4 ≤ s.bufBytes →
      ∃ t, hostWrite (bufOffset a) .word v s = .next t ∧
        hostRead (bufOffset a) .word t = .next { t with readData := v } ∧
        (∀ j, j < 4 → hostRead (bufOffset (a + j)) .byte t =
          .next { t with readData := (v >>> (8 * j)) &&& 0xFF#32 }) ∧
        (∀ b, b < a ∨ a + 4 ≤ b → Memory.read t.buf b = Memory.read s.buf b) ∧ t = { s with buf := t.buf })

/-- R75: an invalid access, a byte access to the register region, a misaligned word access to it or to BUF,
or any 2-byte access, reads 0 and writes nothing, whether a command runs or not. That it is so while BUSY =
1 too is deduced (log 9). -/
def Obligations.InvalidAccessesDoNothing : Prop :=
  ∀ (s : State) (off : BitVec 17) (size : AccessSize) (v : Word),
    (size = .half ∨ (size = .byte ∧ off.toNat < 0x10000) ∨
      (size = .word ∧ off.toNat % 4 ≠ 0 ∧ off.toNat < 0x10000 + s.bufBytes)) →
    hostRead off size s = .next { s with readData := 0#32 } ∧ hostWrite off size v s = .next s

/-- R21, R22, R25, R32, R76, R77: host writes with BUSY = 0. A reserved offset reads 0 and its write is
ignored, and so is a write to a read-only register; a write to ARG0 to ARG2, CODE_STAGE[i] or WEIGHT[i]
stores its value in exactly that register, and one to IRQ_EN its bits 1:0. -/
def Obligations.ReservedAndReadOnlyIgnoreWrites : Prop :=
  ∀ s : State, s.busy = false →
    (∀ (off : BitVec 17) (size : AccessSize) (v : Word),
      ((size = .word ∧ off.toNat < 0x10000 ∧ off.toNat % 4 = 0 ∧ (∀ r : Reg, r.offset ≠ off.toNat)) ∨
        (size ≠ .half ∧ 0x10000 + s.bufBytes ≤ off.toNat) →
        hostRead off size s = .next { s with readData := 0#32 } ∧ hostWrite off size v s = .next s) ∧
      (∀ r : Reg, off.toNat = r.offset → size = .word →
        (r = .id ∨ r = .params ∨ r = .errCode ∨ r = .errInfo ∨ r = .res0 ∨ r = .res1 ∨ r = .res2 ∨
          r = .leafCount ∨ r = .nodeCount ∨ r = .root ∨ r = .dictCount ∨ (∃ x, r = .codeLen x) ∨
          (∃ k, r = .dictOrder k) ∨ (∃ x w, r = .codeBits x w) ∨ (∃ i p, r = .node i p)) →
        hostWrite off size v s = .next s)) ∧
    (∀ v : Word,
      hostWrite 0x00020#17 .word v s = .next { s with arg0 := v } ∧
      hostWrite 0x00024#17 .word v s = .next { s with arg1 := v } ∧
      hostWrite 0x00028#17 .word v s = .next { s with arg2 := v } ∧
      hostWrite 0x0000C#17 .word v s = .next { s with irqEn := v.extractLsb' 0 2 } ∧
      (∀ i (h : i < 8), hostWrite (BitVec.ofNat 17 (0x00060 + 4 * i)) .word v s =
        .next { s with codeStage := s.codeStage.set i v h }) ∧
      (∀ i (h : i < 256), hostWrite (BitVec.ofNat 17 (0x00400 + 4 * i)) .word v s =
        .next { s with weight := s.weight.set i v h }))

/-- R233: while BUSY = 1, a write that is not an invalid access faults unless it is to STATUS or CMD. That a
misaligned word past BUF_BYTES counts as reserved is deduced (log 9). -/
def Obligations.WritesWhileBusyFault : Prop :=
  ∀ (s : State) (off : BitVec 17) (v : Word), s.busy = true →
    (((off.toNat % 4 = 0 ∨ 0x10000 + s.bufBytes ≤ off.toNat) ∧ off ≠ 0x00008#17 ∧ off ≠ 0x00010#17 →
      hostWrite off .word v s = .fault (.writeWhileBusy off)) ∧
    (0x10000 ≤ off.toNat → hostWrite off .byte v s = .fault (.writeWhileBusy off)))

/-- R234: while BUSY = 1, the registers of the status group read their exact values, and a read of any other
offset that is not an invalid access, a register, a reserved offset or BUF, unwritten bytes included,
answers with an unspecified value of its size, the n-th free draw, and has no other effect. The form of the
free value is the model's choice (log 4). That BUF, unwritten bytes too, and reserved offsets, misaligned
words past BUF_BYTES among them, answer so is deduced (log 9, 16). -/
def Obligations.ReadsWhileBusyAreExactOrFree : Prop :=
  ∀ s : State, s.busy = true →
    (∀ r : Reg,
      (r = .id ∨ r = .params ∨ r = .status ∨ r = .irqEn ∨ r = .cmd ∨ r = .errCode ∨ r = .errInfo) →
      hostRead r.busOffset .word s = .next { s with readData := s.readReg r }) ∧
    (∀ off : BitVec 17, (off.toNat % 4 = 0 ∨ 0x10000 + s.bufBytes ≤ off.toNat) →
      ¬ (off = 0x00000#17 ∨ off = 0x00004#17 ∨ off = 0x00008#17 ∨ off = 0x0000C#17 ∨ off = 0x00010#17 ∨
        off = 0x00014#17 ∨ off = 0x00018#17) →
      hostRead off .word s =
        .next { s with readData := Config.freeWord s.draws, draws := s.draws + 1 }) ∧
    (∀ off : BitVec 17, 0x10000 ≤ off.toNat →
      hostRead off .byte s =
        .next { s with readData := (Config.freeByte s.draws).setWidth 32, draws := s.draws + 1 })

/-- R24, R25, R27, R34, R35, R74, R200: how registers lay their fields out in a word. Bit i of a code is bit
31 − (i mod 32) of the CODE_BITS word i div 32; the four words of an arena entry hold its fields at the
places of R34; STATUS, IRQ_EN, CODE_LEN and DICT_ORDER hold theirs in their low bits; ERR_CODE is the number
of the error kind; and every other bit of these reads 0. -/
def Obligations.CodeBitsReadLeftAligned : Prop :=
  ∀ s : State,
    (∀ (x : Byte) (w : Fin 8) (i : Nat), i < 32 →
      (s.readReg (.codeBits x w)).getLsbD (31 - i) = (tableGet s.codeBits x).getMsbD (32 * w.val + i)) ∧
    (∀ (i : Fin 511) (p : NodePart) (j : Nat), j < 32 →
      (s.readReg (.node i p)).getLsbD j =
        match p with
        | .wlo => s.node[i].weight.getLsbD j
        | .whi => if j < 8 then s.node[i].weight.getLsbD (32 + j) else false
        | .info =>
          if j < 8 then s.node[i].symbol.getLsbD j else if j = 31 then s.node[i].leaf else false
        | .link =>
          if j < 9 then s.node[i].left.getLsbD j
          else if 16 ≤ j ∧ j < 25 then s.node[i].right.getLsbD (j - 16) else false) ∧
    (∀ j, j < 32 →
      (s.readReg .status).getLsbD j =
          (if j = 0 then s.busy else if j = 1 then s.done else if j = 2 then s.err else if j = 3 then s.rej
            else if j = 4 then s.treeValid else false) ∧
        (s.readReg .irqEn).getLsbD j = (if j < 2 then s.irqEn.getLsbD j else false) ∧
        (∀ x, (s.readReg (.codeLen x)).getLsbD j =
          (if j < 8 then (tableGet s.codeLen x).getLsbD j else false)) ∧
        (∀ k, (s.readReg (.dictOrder k)).getLsbD j =
          (if j < 8 then (tableGet s.dictOrder k).getLsbD j else false))) ∧
    (s.errCode = none → s.readReg .errCode = 0#32) ∧
    (∀ k, s.errCode = some k → s.readReg .errCode =
      match k with
      | .invalidInput => 1#32
      | .unknownSymbol => 2#32
      | .decodeError => 3#32
      | .ioError => 4#32
      | .parseError => 5#32
      | .rangeError => 6#32
      | .illegalCommand => 7#32)

/-- R30: ID reads 0x48544231 and PARAMS log2(BUF_BYTES) and 0xFF, in every state; and no step changes
BUF_BYTES, hardware reset included. -/
def Obligations.ConstantsNeverChange : Prop :=
  (∀ s : State, s.readReg .id = 0x48544231#32 ∧
    (s.readReg .params).toNat % 256 = 0xFF ∧ s.bufBytes = 2 ^ ((s.readReg .params).toNat / 256)) ∧
  (∀ s t : State, step s = .next t → t.bufLog = s.bufLog)

/-! ## Reset -/

/-- R230, R41: hardware reset, as the next input, puts every item of R41 at its reset value, abandons the
running command and makes every BUF byte unwritten. That reset is one input and one step, and what stays,
the inputs, readData and draws, is the model's choice (log 1, 13). -/
def Obligations.HardResetClearsAll : Prop :=
  ∀ (s : State) (rest : List Input), s.inputs = .hardReset :: rest →
    ∃ t, step s = .next t ∧ (∀ a, Memory.read t.buf a = none) ∧ t.busy = false ∧ t.irq = false ∧
      t = { State.reset with
        bufLog := s.bufLog, inputs := rest, readData := s.readData, draws := s.draws }

/-! ## Invariants -/

/-- BUF keeps its canonical form and lists bytes of BUF only, at every step (R38, R70, R79). -/
def Obligations.StepKeepsMemInv : Prop :=
  ∀ s t : State, MemInv s → step s = .next t → MemInv t

/-- R27, R28, R200: ERR_CODE is not 0 exactly when ERR = 1, ERR_INFO is 0 when ERR = 0, and the reserved
codes are never recorded, at every step. -/
def Obligations.StepKeepsErrInv : Prop :=
  ∀ s t : State, ErrInv s → step s = .next t → ErrInv t

/-- R110, R112, R233: while a command runs, DONE = 0, LASTCMD is its word, ERR = 1 only with SRESET, and the
private copies equal the operand registers, at every step. -/
def Obligations.StepKeepsEngineInv : Prop :=
  ∀ s t : State, EngineInv s → step s = .next t → EngineInv t

/-- R33, R37: the node arena stays empty or a full binary tree with exact weight sums, at every step. -/
def Obligations.StepKeepsTreeInv : Prop :=
  ∀ s t : State, TreeInv s → step s = .next t → TreeInv t

/-- R35, R36: the dictionary stays counted, listed once and prefix-free, at every step from a state whose
arena is a tree or empty. -/
def Obligations.StepKeepsDictInv : Prop :=
  ∀ s t : State, TreeInv s → DictInv s → step s = .next t → DictInv t

/-- The invariants hold right after reset, for every BUF_BYTES and every sequence of inputs to come.
BUF_BYTES and the inputs are fields by the model's choice (log 1, 12). -/
def Obligations.ResetMeetsInvariants : Prop :=
  ∀ (k : Fin 7) (is : List Input), Inv { State.reset with bufLog := k, inputs := is }

/-- R36: the dictionary tables in every state a run reaches. -/
def Obligations.ReachableDictionaryPrefixFree : Prop :=
  ∀ s : State, Reachable s →
    s.dictCount.toNat = (symbols.filter (fun x => tableGet s.codeLen x != 0#8)).length ∧
    s.dictSymbols.Nodup ∧ (∀ x, tableGet s.codeLen x ≠ 0#8 ↔ x ∈ s.dictSymbols) ∧
    (∀ x y, tableGet s.codeLen x ≠ 0#8 → tableGet s.codeLen y ≠ 0#8 → s.code x <+: s.code y → x = y) ∧
    (∀ x, tableGet s.codeLen x ≠ 0#8 →
      1 ≤ (tableGet s.codeLen x).toNat ∧ (tableGet s.codeLen x).toNat ≤ 255)

/-- R37: the node arena in every state a run reaches. -/
def Obligations.ReachableArenaIsTree : Prop :=
  ∀ s : State, Reachable s →
    (s.treeValid = true ↔ s.nodeCount ≠ 0#32) ∧ (s.treeValid = true → HasTree s) ∧
    (s.treeValid = false → NoTree s)

/-- R85, R233: a step stops only by reading a BUF byte that nothing has written, or by a host write while
BUSY = 1; and it never refuses. And a read of an unwritten byte does stop: with BUSY = 0, a host read of the
byte or of an aligned word, at its first unwritten byte; a PACK whose source is in range, at the first
unwritten source byte with no unknown symbol before it; an UNPACK whose source is in range, at its metadata
byte, or, when that is legal, at its first unwritten data byte. The order in which commands read BUF is
deduced from their pseudocode (log 14, 21). -/
def Obligations.StepStopsOnlyOnFaults : Prop :=
  ∀ s : State,
    (∀ f, step s = .fault f →
      (∃ a, f = .unwrittenBufByte a ∧ Memory.read s.buf a = none) ∨
      (∃ off, f = .writeWhileBusy off ∧ s.busy = true)) ∧
    (∀ x, step s ≠ .refused x) ∧
    (∀ a, s.busy = false → a < s.bufBytes → Memory.read s.buf a = none →
      hostRead (bufOffset a) .byte s = .fault (.unwrittenBufByte a)) ∧
    (∀ a j, s.busy = false → a % 4 = 0 → a + 4 ≤ s.bufBytes → j < 4 →
      (∀ i, i < j → Memory.read s.buf (a + i) ≠ none) → Memory.read s.buf (a + j) = none →
      hostRead (bufOffset a) .word s = .fault (.unwrittenBufByte (a + j))) ∧
    (s.argSrc + s.argLen ≤ s.bufBytes → s.dictCount ≠ 0#32 →
      (∀ i, i < s.argLen →
        (∀ j, j < i → ∃ y, Memory.read s.buf (s.argSrc + j) = some y ∧ tableGet s.codeLen y ≠ 0#8) →
        Memory.read s.buf (s.argSrc + i) = none →
        exec .pack s = .fault (.unwrittenBufByte (s.argSrc + i))) ∧
      (s.argLen ≠ 0 → Memory.read s.buf (s.argSrc + (s.argLen - 1)) = none →
        exec .unpack s = .fault (.unwrittenBufByte (s.argSrc + (s.argLen - 1)))) ∧
      (∀ (m : Byte) (i : Nat), Memory.read s.buf (s.argSrc + (s.argLen - 1)) = some m → 1 ≤ m.toNat →
        m.toNat ≤ 8 → i < s.argLen - 1 → (∀ j, j < i → Memory.read s.buf (s.argSrc + j) ≠ none) →
        Memory.read s.buf (s.argSrc + i) = none →
        exec .unpack s = .fault (.unwrittenBufByte (s.argSrc + i))))

/-- R85, R117: a written BUF byte stays written at every step but hardware reset. That hardware resets come
in the list of inputs is the model's choice (log 1). -/
def Obligations.WrittenBytesStayWritten : Prop :=
  ∀ s t : State, (∀ rest, s.inputs ≠ .hardReset :: rest) → step s = .next t →
    ∀ a, Memory.read s.buf a ≠ none → Memory.read t.buf a ≠ none
end

