-- ==== Sys2Proof/Laws/State.lean ====
section
/-! SUPPORT. The fields of the named updates of State, one lemma a field. -/

namespace Sys2Proof.Machine


/-! ## State.commit -/

@[simp] theorem State.commit_arg0 (s : State) : s.commit.arg0 = s.arg0 := rfl
@[simp] theorem State.commit_arg1 (s : State) : s.commit.arg1 = s.arg1 := rfl
@[simp] theorem State.commit_arg2 (s : State) : s.commit.arg2 = s.arg2 := rfl
@[simp] theorem State.commit_codeStage (s : State) : s.commit.codeStage = s.codeStage := rfl
@[simp] theorem State.commit_done (s : State) : s.commit.done = true := rfl
@[simp] theorem State.commit_err (s : State) : s.commit.err = s.err := rfl
@[simp] theorem State.commit_rej (s : State) : s.commit.rej = s.rej := rfl
@[simp] theorem State.commit_treeValid (s : State) : s.commit.treeValid = s.treeValid := rfl
@[simp] theorem State.commit_irqEn (s : State) : s.commit.irqEn = s.irqEn := rfl
@[simp] theorem State.commit_lastCmd (s : State) : s.commit.lastCmd = s.lastCmd := rfl
@[simp] theorem State.commit_errCode (s : State) : s.commit.errCode = s.errCode := rfl
@[simp] theorem State.commit_errInfo (s : State) : s.commit.errInfo = s.errInfo := rfl
@[simp] theorem State.commit_res0 (s : State) : s.commit.res0 = s.res0 := rfl
@[simp] theorem State.commit_res1 (s : State) : s.commit.res1 = s.res1 := rfl
@[simp] theorem State.commit_res2 (s : State) : s.commit.res2 = s.res2 := rfl
@[simp] theorem State.commit_leafCount (s : State) : s.commit.leafCount = s.leafCount := rfl
@[simp] theorem State.commit_nodeCount (s : State) : s.commit.nodeCount = s.nodeCount := rfl
@[simp] theorem State.commit_root (s : State) : s.commit.root = s.root := rfl
@[simp] theorem State.commit_dictCount (s : State) : s.commit.dictCount = s.dictCount := rfl
@[simp] theorem State.commit_weight (s : State) : s.commit.weight = s.weight := rfl
@[simp] theorem State.commit_node (s : State) : s.commit.node = s.node := rfl
@[simp] theorem State.commit_codeLen (s : State) : s.commit.codeLen = s.codeLen := rfl
@[simp] theorem State.commit_codeBits (s : State) : s.commit.codeBits = s.codeBits := rfl
@[simp] theorem State.commit_dictOrder (s : State) : s.commit.dictOrder = s.dictOrder := rfl
@[simp] theorem State.commit_buf (s : State) : s.commit.buf = s.buf := rfl
@[simp] theorem State.commit_engine (s : State) : s.commit.engine = none := rfl
@[simp] theorem State.commit_bufLog (s : State) : s.commit.bufLog = s.bufLog := rfl
@[simp] theorem State.commit_inputs (s : State) : s.commit.inputs = s.inputs := rfl
@[simp] theorem State.commit_readData (s : State) : s.commit.readData = s.readData := rfl
@[simp] theorem State.commit_draws (s : State) : s.commit.draws = s.draws := rfl

/-! ## State.raise -/

@[simp] theorem State.raise_arg0 (s : State) (k : ErrKind) (info : Word) : (s.raise k info).arg0 = s.arg0 := rfl
@[simp] theorem State.raise_arg1 (s : State) (k : ErrKind) (info : Word) : (s.raise k info).arg1 = s.arg1 := rfl
@[simp] theorem State.raise_arg2 (s : State) (k : ErrKind) (info : Word) : (s.raise k info).arg2 = s.arg2 := rfl
@[simp] theorem State.raise_codeStage (s : State) (k : ErrKind) (info : Word) : (s.raise k info).codeStage = s.codeStage := rfl
@[simp] theorem State.raise_done (s : State) (k : ErrKind) (info : Word) : (s.raise k info).done = true := rfl
@[simp] theorem State.raise_err (s : State) (k : ErrKind) (info : Word) : (s.raise k info).err = true := rfl
@[simp] theorem State.raise_rej (s : State) (k : ErrKind) (info : Word) : (s.raise k info).rej = s.rej := rfl
@[simp] theorem State.raise_treeValid (s : State) (k : ErrKind) (info : Word) : (s.raise k info).treeValid = s.treeValid := rfl
@[simp] theorem State.raise_irqEn (s : State) (k : ErrKind) (info : Word) : (s.raise k info).irqEn = s.irqEn := rfl
@[simp] theorem State.raise_lastCmd (s : State) (k : ErrKind) (info : Word) : (s.raise k info).lastCmd = s.lastCmd := rfl
@[simp] theorem State.raise_errCode (s : State) (k : ErrKind) (info : Word) : (s.raise k info).errCode = some k := rfl
@[simp] theorem State.raise_errInfo (s : State) (k : ErrKind) (info : Word) : (s.raise k info).errInfo = info := rfl
@[simp] theorem State.raise_res0 (s : State) (k : ErrKind) (info : Word) : (s.raise k info).res0 = s.res0 := rfl
@[simp] theorem State.raise_res1 (s : State) (k : ErrKind) (info : Word) : (s.raise k info).res1 = s.res1 := rfl
@[simp] theorem State.raise_res2 (s : State) (k : ErrKind) (info : Word) : (s.raise k info).res2 = s.res2 := rfl
@[simp] theorem State.raise_leafCount (s : State) (k : ErrKind) (info : Word) : (s.raise k info).leafCount = s.leafCount := rfl
@[simp] theorem State.raise_nodeCount (s : State) (k : ErrKind) (info : Word) : (s.raise k info).nodeCount = s.nodeCount := rfl
@[simp] theorem State.raise_root (s : State) (k : ErrKind) (info : Word) : (s.raise k info).root = s.root := rfl
@[simp] theorem State.raise_dictCount (s : State) (k : ErrKind) (info : Word) : (s.raise k info).dictCount = s.dictCount := rfl
@[simp] theorem State.raise_weight (s : State) (k : ErrKind) (info : Word) : (s.raise k info).weight = s.weight := rfl
@[simp] theorem State.raise_node (s : State) (k : ErrKind) (info : Word) : (s.raise k info).node = s.node := rfl
@[simp] theorem State.raise_codeLen (s : State) (k : ErrKind) (info : Word) : (s.raise k info).codeLen = s.codeLen := rfl
@[simp] theorem State.raise_codeBits (s : State) (k : ErrKind) (info : Word) : (s.raise k info).codeBits = s.codeBits := rfl
@[simp] theorem State.raise_dictOrder (s : State) (k : ErrKind) (info : Word) : (s.raise k info).dictOrder = s.dictOrder := rfl
@[simp] theorem State.raise_buf (s : State) (k : ErrKind) (info : Word) : (s.raise k info).buf = s.buf := rfl
@[simp] theorem State.raise_engine (s : State) (k : ErrKind) (info : Word) : (s.raise k info).engine = none := rfl
@[simp] theorem State.raise_bufLog (s : State) (k : ErrKind) (info : Word) : (s.raise k info).bufLog = s.bufLog := rfl
@[simp] theorem State.raise_inputs (s : State) (k : ErrKind) (info : Word) : (s.raise k info).inputs = s.inputs := rfl
@[simp] theorem State.raise_readData (s : State) (k : ErrKind) (info : Word) : (s.raise k info).readData = s.readData := rfl
@[simp] theorem State.raise_draws (s : State) (k : ErrKind) (info : Word) : (s.raise k info).draws = s.draws := rfl

/-! ## State.accept -/

@[simp] theorem State.accept_arg0 (s : State) (w : Word) : (s.accept w).arg0 = s.arg0 := rfl
@[simp] theorem State.accept_arg1 (s : State) (w : Word) : (s.accept w).arg1 = s.arg1 := rfl
@[simp] theorem State.accept_arg2 (s : State) (w : Word) : (s.accept w).arg2 = s.arg2 := rfl
@[simp] theorem State.accept_codeStage (s : State) (w : Word) : (s.accept w).codeStage = s.codeStage := rfl
@[simp] theorem State.accept_done (s : State) (w : Word) : (s.accept w).done = false := rfl
@[simp] theorem State.accept_err (s : State) (w : Word) : (s.accept w).err = s.err := rfl
@[simp] theorem State.accept_rej (s : State) (w : Word) : (s.accept w).rej = s.rej := rfl
@[simp] theorem State.accept_treeValid (s : State) (w : Word) : (s.accept w).treeValid = s.treeValid := rfl
@[simp] theorem State.accept_irqEn (s : State) (w : Word) : (s.accept w).irqEn = s.irqEn := rfl
@[simp] theorem State.accept_lastCmd (s : State) (w : Word) : (s.accept w).lastCmd = w := rfl
@[simp] theorem State.accept_errCode (s : State) (w : Word) : (s.accept w).errCode = s.errCode := rfl
@[simp] theorem State.accept_errInfo (s : State) (w : Word) : (s.accept w).errInfo = s.errInfo := rfl
@[simp] theorem State.accept_res0 (s : State) (w : Word) : (s.accept w).res0 = s.res0 := rfl
@[simp] theorem State.accept_res1 (s : State) (w : Word) : (s.accept w).res1 = s.res1 := rfl
@[simp] theorem State.accept_res2 (s : State) (w : Word) : (s.accept w).res2 = s.res2 := rfl
@[simp] theorem State.accept_leafCount (s : State) (w : Word) : (s.accept w).leafCount = s.leafCount := rfl
@[simp] theorem State.accept_nodeCount (s : State) (w : Word) : (s.accept w).nodeCount = s.nodeCount := rfl
@[simp] theorem State.accept_root (s : State) (w : Word) : (s.accept w).root = s.root := rfl
@[simp] theorem State.accept_dictCount (s : State) (w : Word) : (s.accept w).dictCount = s.dictCount := rfl
@[simp] theorem State.accept_weight (s : State) (w : Word) : (s.accept w).weight = s.weight := rfl
@[simp] theorem State.accept_node (s : State) (w : Word) : (s.accept w).node = s.node := rfl
@[simp] theorem State.accept_codeLen (s : State) (w : Word) : (s.accept w).codeLen = s.codeLen := rfl
@[simp] theorem State.accept_codeBits (s : State) (w : Word) : (s.accept w).codeBits = s.codeBits := rfl
@[simp] theorem State.accept_dictOrder (s : State) (w : Word) : (s.accept w).dictOrder = s.dictOrder := rfl
@[simp] theorem State.accept_buf (s : State) (w : Word) : (s.accept w).buf = s.buf := rfl
@[simp] theorem State.accept_engine (s : State) (w : Word) : (s.accept w).engine = some (s.privateCopies w) := rfl
@[simp] theorem State.accept_bufLog (s : State) (w : Word) : (s.accept w).bufLog = s.bufLog := rfl
@[simp] theorem State.accept_inputs (s : State) (w : Word) : (s.accept w).inputs = s.inputs := rfl
@[simp] theorem State.accept_readData (s : State) (w : Word) : (s.accept w).readData = s.readData := rfl
@[simp] theorem State.accept_draws (s : State) (w : Word) : (s.accept w).draws = s.draws := rfl

/-! ## State.reject -/

@[simp] theorem State.reject_arg0 (s : State) : s.reject.arg0 = s.arg0 := rfl
@[simp] theorem State.reject_arg1 (s : State) : s.reject.arg1 = s.arg1 := rfl
@[simp] theorem State.reject_arg2 (s : State) : s.reject.arg2 = s.arg2 := rfl
@[simp] theorem State.reject_codeStage (s : State) : s.reject.codeStage = s.codeStage := rfl
@[simp] theorem State.reject_done (s : State) : s.reject.done = s.done := rfl
@[simp] theorem State.reject_err (s : State) : s.reject.err = s.err := rfl
@[simp] theorem State.reject_rej (s : State) : s.reject.rej = true := rfl
@[simp] theorem State.reject_treeValid (s : State) : s.reject.treeValid = s.treeValid := rfl
@[simp] theorem State.reject_irqEn (s : State) : s.reject.irqEn = s.irqEn := rfl
@[simp] theorem State.reject_lastCmd (s : State) : s.reject.lastCmd = s.lastCmd := rfl
@[simp] theorem State.reject_errCode (s : State) : s.reject.errCode = s.errCode := rfl
@[simp] theorem State.reject_errInfo (s : State) : s.reject.errInfo = s.errInfo := rfl
@[simp] theorem State.reject_res0 (s : State) : s.reject.res0 = s.res0 := rfl
@[simp] theorem State.reject_res1 (s : State) : s.reject.res1 = s.res1 := rfl
@[simp] theorem State.reject_res2 (s : State) : s.reject.res2 = s.res2 := rfl
@[simp] theorem State.reject_leafCount (s : State) : s.reject.leafCount = s.leafCount := rfl
@[simp] theorem State.reject_nodeCount (s : State) : s.reject.nodeCount = s.nodeCount := rfl
@[simp] theorem State.reject_root (s : State) : s.reject.root = s.root := rfl
@[simp] theorem State.reject_dictCount (s : State) : s.reject.dictCount = s.dictCount := rfl
@[simp] theorem State.reject_weight (s : State) : s.reject.weight = s.weight := rfl
@[simp] theorem State.reject_node (s : State) : s.reject.node = s.node := rfl
@[simp] theorem State.reject_codeLen (s : State) : s.reject.codeLen = s.codeLen := rfl
@[simp] theorem State.reject_codeBits (s : State) : s.reject.codeBits = s.codeBits := rfl
@[simp] theorem State.reject_dictOrder (s : State) : s.reject.dictOrder = s.dictOrder := rfl
@[simp] theorem State.reject_buf (s : State) : s.reject.buf = s.buf := rfl
@[simp] theorem State.reject_engine (s : State) : s.reject.engine = s.engine := rfl
@[simp] theorem State.reject_bufLog (s : State) : s.reject.bufLog = s.bufLog := rfl
@[simp] theorem State.reject_inputs (s : State) : s.reject.inputs = s.inputs := rfl
@[simp] theorem State.reject_readData (s : State) : s.reject.readData = s.readData := rfl
@[simp] theorem State.reject_draws (s : State) : s.reject.draws = s.draws := rfl

/-! ## State.clearStatus -/

@[simp] theorem State.clearStatus_arg0 (s : State) (v : Word) : (s.clearStatus v).arg0 = s.arg0 := rfl
@[simp] theorem State.clearStatus_arg1 (s : State) (v : Word) : (s.clearStatus v).arg1 = s.arg1 := rfl
@[simp] theorem State.clearStatus_arg2 (s : State) (v : Word) : (s.clearStatus v).arg2 = s.arg2 := rfl
@[simp] theorem State.clearStatus_codeStage (s : State) (v : Word) : (s.clearStatus v).codeStage = s.codeStage := rfl
@[simp] theorem State.clearStatus_done (s : State) (v : Word) : (s.clearStatus v).done = (s.done && !v.getLsbD 1) := rfl
@[simp] theorem State.clearStatus_err (s : State) (v : Word) : (s.clearStatus v).err = (s.err && !v.getLsbD 2) := rfl
@[simp] theorem State.clearStatus_rej (s : State) (v : Word) : (s.clearStatus v).rej = (s.rej && !v.getLsbD 3) := rfl
@[simp] theorem State.clearStatus_treeValid (s : State) (v : Word) : (s.clearStatus v).treeValid = s.treeValid := rfl
@[simp] theorem State.clearStatus_irqEn (s : State) (v : Word) : (s.clearStatus v).irqEn = s.irqEn := rfl
@[simp] theorem State.clearStatus_lastCmd (s : State) (v : Word) : (s.clearStatus v).lastCmd = s.lastCmd := rfl
@[simp] theorem State.clearStatus_errCode (s : State) (v : Word) : (s.clearStatus v).errCode = (if v.getLsbD 2 then none else s.errCode) := rfl
@[simp] theorem State.clearStatus_errInfo (s : State) (v : Word) : (s.clearStatus v).errInfo = (if v.getLsbD 2 then 0#32 else s.errInfo) := rfl
@[simp] theorem State.clearStatus_res0 (s : State) (v : Word) : (s.clearStatus v).res0 = s.res0 := rfl
@[simp] theorem State.clearStatus_res1 (s : State) (v : Word) : (s.clearStatus v).res1 = s.res1 := rfl
@[simp] theorem State.clearStatus_res2 (s : State) (v : Word) : (s.clearStatus v).res2 = s.res2 := rfl
@[simp] theorem State.clearStatus_leafCount (s : State) (v : Word) : (s.clearStatus v).leafCount = s.leafCount := rfl
@[simp] theorem State.clearStatus_nodeCount (s : State) (v : Word) : (s.clearStatus v).nodeCount = s.nodeCount := rfl
@[simp] theorem State.clearStatus_root (s : State) (v : Word) : (s.clearStatus v).root = s.root := rfl
@[simp] theorem State.clearStatus_dictCount (s : State) (v : Word) : (s.clearStatus v).dictCount = s.dictCount := rfl
@[simp] theorem State.clearStatus_weight (s : State) (v : Word) : (s.clearStatus v).weight = s.weight := rfl
@[simp] theorem State.clearStatus_node (s : State) (v : Word) : (s.clearStatus v).node = s.node := rfl
@[simp] theorem State.clearStatus_codeLen (s : State) (v : Word) : (s.clearStatus v).codeLen = s.codeLen := rfl
@[simp] theorem State.clearStatus_codeBits (s : State) (v : Word) : (s.clearStatus v).codeBits = s.codeBits := rfl
@[simp] theorem State.clearStatus_dictOrder (s : State) (v : Word) : (s.clearStatus v).dictOrder = s.dictOrder := rfl
@[simp] theorem State.clearStatus_buf (s : State) (v : Word) : (s.clearStatus v).buf = s.buf := rfl
@[simp] theorem State.clearStatus_engine (s : State) (v : Word) : (s.clearStatus v).engine = s.engine := rfl
@[simp] theorem State.clearStatus_bufLog (s : State) (v : Word) : (s.clearStatus v).bufLog = s.bufLog := rfl
@[simp] theorem State.clearStatus_inputs (s : State) (v : Word) : (s.clearStatus v).inputs = s.inputs := rfl
@[simp] theorem State.clearStatus_readData (s : State) (v : Word) : (s.clearStatus v).readData = s.readData := rfl
@[simp] theorem State.clearStatus_draws (s : State) (v : Word) : (s.clearStatus v).draws = s.draws := rfl

/-! ## State.setIrqEn -/

@[simp] theorem State.setIrqEn_arg0 (s : State) (v : Word) : (s.setIrqEn v).arg0 = s.arg0 := rfl
@[simp] theorem State.setIrqEn_arg1 (s : State) (v : Word) : (s.setIrqEn v).arg1 = s.arg1 := rfl
@[simp] theorem State.setIrqEn_arg2 (s : State) (v : Word) : (s.setIrqEn v).arg2 = s.arg2 := rfl
@[simp] theorem State.setIrqEn_codeStage (s : State) (v : Word) : (s.setIrqEn v).codeStage = s.codeStage := rfl
@[simp] theorem State.setIrqEn_done (s : State) (v : Word) : (s.setIrqEn v).done = s.done := rfl
@[simp] theorem State.setIrqEn_err (s : State) (v : Word) : (s.setIrqEn v).err = s.err := rfl
@[simp] theorem State.setIrqEn_rej (s : State) (v : Word) : (s.setIrqEn v).rej = s.rej := rfl
@[simp] theorem State.setIrqEn_treeValid (s : State) (v : Word) : (s.setIrqEn v).treeValid = s.treeValid := rfl
@[simp] theorem State.setIrqEn_irqEn (s : State) (v : Word) : (s.setIrqEn v).irqEn = v.extractLsb' 0 2 := rfl
@[simp] theorem State.setIrqEn_lastCmd (s : State) (v : Word) : (s.setIrqEn v).lastCmd = s.lastCmd := rfl
@[simp] theorem State.setIrqEn_errCode (s : State) (v : Word) : (s.setIrqEn v).errCode = s.errCode := rfl
@[simp] theorem State.setIrqEn_errInfo (s : State) (v : Word) : (s.setIrqEn v).errInfo = s.errInfo := rfl
@[simp] theorem State.setIrqEn_res0 (s : State) (v : Word) : (s.setIrqEn v).res0 = s.res0 := rfl
@[simp] theorem State.setIrqEn_res1 (s : State) (v : Word) : (s.setIrqEn v).res1 = s.res1 := rfl
@[simp] theorem State.setIrqEn_res2 (s : State) (v : Word) : (s.setIrqEn v).res2 = s.res2 := rfl
@[simp] theorem State.setIrqEn_leafCount (s : State) (v : Word) : (s.setIrqEn v).leafCount = s.leafCount := rfl
@[simp] theorem State.setIrqEn_nodeCount (s : State) (v : Word) : (s.setIrqEn v).nodeCount = s.nodeCount := rfl
@[simp] theorem State.setIrqEn_root (s : State) (v : Word) : (s.setIrqEn v).root = s.root := rfl
@[simp] theorem State.setIrqEn_dictCount (s : State) (v : Word) : (s.setIrqEn v).dictCount = s.dictCount := rfl
@[simp] theorem State.setIrqEn_weight (s : State) (v : Word) : (s.setIrqEn v).weight = s.weight := rfl
@[simp] theorem State.setIrqEn_node (s : State) (v : Word) : (s.setIrqEn v).node = s.node := rfl
@[simp] theorem State.setIrqEn_codeLen (s : State) (v : Word) : (s.setIrqEn v).codeLen = s.codeLen := rfl
@[simp] theorem State.setIrqEn_codeBits (s : State) (v : Word) : (s.setIrqEn v).codeBits = s.codeBits := rfl
@[simp] theorem State.setIrqEn_dictOrder (s : State) (v : Word) : (s.setIrqEn v).dictOrder = s.dictOrder := rfl
@[simp] theorem State.setIrqEn_buf (s : State) (v : Word) : (s.setIrqEn v).buf = s.buf := rfl
@[simp] theorem State.setIrqEn_engine (s : State) (v : Word) : (s.setIrqEn v).engine = s.engine := rfl
@[simp] theorem State.setIrqEn_bufLog (s : State) (v : Word) : (s.setIrqEn v).bufLog = s.bufLog := rfl
@[simp] theorem State.setIrqEn_inputs (s : State) (v : Word) : (s.setIrqEn v).inputs = s.inputs := rfl
@[simp] theorem State.setIrqEn_readData (s : State) (v : Word) : (s.setIrqEn v).readData = s.readData := rfl
@[simp] theorem State.setIrqEn_draws (s : State) (v : Word) : (s.setIrqEn v).draws = s.draws := rfl

/-! ## State.bufWriteList -/

@[simp] theorem State.bufWriteList_arg0 (s : State) (a : Nat) (vs : List Byte) : (s.bufWriteList a vs).arg0 = s.arg0 := rfl
@[simp] theorem State.bufWriteList_arg1 (s : State) (a : Nat) (vs : List Byte) : (s.bufWriteList a vs).arg1 = s.arg1 := rfl
@[simp] theorem State.bufWriteList_arg2 (s : State) (a : Nat) (vs : List Byte) : (s.bufWriteList a vs).arg2 = s.arg2 := rfl
@[simp] theorem State.bufWriteList_codeStage (s : State) (a : Nat) (vs : List Byte) : (s.bufWriteList a vs).codeStage = s.codeStage := rfl
@[simp] theorem State.bufWriteList_done (s : State) (a : Nat) (vs : List Byte) : (s.bufWriteList a vs).done = s.done := rfl
@[simp] theorem State.bufWriteList_err (s : State) (a : Nat) (vs : List Byte) : (s.bufWriteList a vs).err = s.err := rfl
@[simp] theorem State.bufWriteList_rej (s : State) (a : Nat) (vs : List Byte) : (s.bufWriteList a vs).rej = s.rej := rfl
@[simp] theorem State.bufWriteList_treeValid (s : State) (a : Nat) (vs : List Byte) : (s.bufWriteList a vs).treeValid = s.treeValid := rfl
@[simp] theorem State.bufWriteList_irqEn (s : State) (a : Nat) (vs : List Byte) : (s.bufWriteList a vs).irqEn = s.irqEn := rfl
@[simp] theorem State.bufWriteList_lastCmd (s : State) (a : Nat) (vs : List Byte) : (s.bufWriteList a vs).lastCmd = s.lastCmd := rfl
@[simp] theorem State.bufWriteList_errCode (s : State) (a : Nat) (vs : List Byte) : (s.bufWriteList a vs).errCode = s.errCode := rfl
@[simp] theorem State.bufWriteList_errInfo (s : State) (a : Nat) (vs : List Byte) : (s.bufWriteList a vs).errInfo = s.errInfo := rfl
@[simp] theorem State.bufWriteList_res0 (s : State) (a : Nat) (vs : List Byte) : (s.bufWriteList a vs).res0 = s.res0 := rfl
@[simp] theorem State.bufWriteList_res1 (s : State) (a : Nat) (vs : List Byte) : (s.bufWriteList a vs).res1 = s.res1 := rfl
@[simp] theorem State.bufWriteList_res2 (s : State) (a : Nat) (vs : List Byte) : (s.bufWriteList a vs).res2 = s.res2 := rfl
@[simp] theorem State.bufWriteList_leafCount (s : State) (a : Nat) (vs : List Byte) : (s.bufWriteList a vs).leafCount = s.leafCount := rfl
@[simp] theorem State.bufWriteList_nodeCount (s : State) (a : Nat) (vs : List Byte) : (s.bufWriteList a vs).nodeCount = s.nodeCount := rfl
@[simp] theorem State.bufWriteList_root (s : State) (a : Nat) (vs : List Byte) : (s.bufWriteList a vs).root = s.root := rfl
@[simp] theorem State.bufWriteList_dictCount (s : State) (a : Nat) (vs : List Byte) : (s.bufWriteList a vs).dictCount = s.dictCount := rfl
@[simp] theorem State.bufWriteList_weight (s : State) (a : Nat) (vs : List Byte) : (s.bufWriteList a vs).weight = s.weight := rfl
@[simp] theorem State.bufWriteList_node (s : State) (a : Nat) (vs : List Byte) : (s.bufWriteList a vs).node = s.node := rfl
@[simp] theorem State.bufWriteList_codeLen (s : State) (a : Nat) (vs : List Byte) : (s.bufWriteList a vs).codeLen = s.codeLen := rfl
@[simp] theorem State.bufWriteList_codeBits (s : State) (a : Nat) (vs : List Byte) : (s.bufWriteList a vs).codeBits = s.codeBits := rfl
@[simp] theorem State.bufWriteList_dictOrder (s : State) (a : Nat) (vs : List Byte) : (s.bufWriteList a vs).dictOrder = s.dictOrder := rfl
@[simp] theorem State.bufWriteList_buf (s : State) (a : Nat) (vs : List Byte) : (s.bufWriteList a vs).buf = Memory.writeList s.buf a vs := rfl
@[simp] theorem State.bufWriteList_engine (s : State) (a : Nat) (vs : List Byte) : (s.bufWriteList a vs).engine = s.engine := rfl
@[simp] theorem State.bufWriteList_bufLog (s : State) (a : Nat) (vs : List Byte) : (s.bufWriteList a vs).bufLog = s.bufLog := rfl
@[simp] theorem State.bufWriteList_inputs (s : State) (a : Nat) (vs : List Byte) : (s.bufWriteList a vs).inputs = s.inputs := rfl
@[simp] theorem State.bufWriteList_readData (s : State) (a : Nat) (vs : List Byte) : (s.bufWriteList a vs).readData = s.readData := rfl
@[simp] theorem State.bufWriteList_draws (s : State) (a : Nat) (vs : List Byte) : (s.bufWriteList a vs).draws = s.draws := rfl

/-! ## State.setResults -/

@[simp] theorem State.setResults_arg0 (s : State) (r0 r1 r2 : Nat) : (s.setResults r0 r1 r2).arg0 = s.arg0 := rfl
@[simp] theorem State.setResults_arg1 (s : State) (r0 r1 r2 : Nat) : (s.setResults r0 r1 r2).arg1 = s.arg1 := rfl
@[simp] theorem State.setResults_arg2 (s : State) (r0 r1 r2 : Nat) : (s.setResults r0 r1 r2).arg2 = s.arg2 := rfl
@[simp] theorem State.setResults_codeStage (s : State) (r0 r1 r2 : Nat) : (s.setResults r0 r1 r2).codeStage = s.codeStage := rfl
@[simp] theorem State.setResults_done (s : State) (r0 r1 r2 : Nat) : (s.setResults r0 r1 r2).done = s.done := rfl
@[simp] theorem State.setResults_err (s : State) (r0 r1 r2 : Nat) : (s.setResults r0 r1 r2).err = s.err := rfl
@[simp] theorem State.setResults_rej (s : State) (r0 r1 r2 : Nat) : (s.setResults r0 r1 r2).rej = s.rej := rfl
@[simp] theorem State.setResults_treeValid (s : State) (r0 r1 r2 : Nat) : (s.setResults r0 r1 r2).treeValid = s.treeValid := rfl
@[simp] theorem State.setResults_irqEn (s : State) (r0 r1 r2 : Nat) : (s.setResults r0 r1 r2).irqEn = s.irqEn := rfl
@[simp] theorem State.setResults_lastCmd (s : State) (r0 r1 r2 : Nat) : (s.setResults r0 r1 r2).lastCmd = s.lastCmd := rfl
@[simp] theorem State.setResults_errCode (s : State) (r0 r1 r2 : Nat) : (s.setResults r0 r1 r2).errCode = s.errCode := rfl
@[simp] theorem State.setResults_errInfo (s : State) (r0 r1 r2 : Nat) : (s.setResults r0 r1 r2).errInfo = s.errInfo := rfl
@[simp] theorem State.setResults_res0 (s : State) (r0 r1 r2 : Nat) : (s.setResults r0 r1 r2).res0 = BitVec.ofNat 32 r0 := rfl
@[simp] theorem State.setResults_res1 (s : State) (r0 r1 r2 : Nat) : (s.setResults r0 r1 r2).res1 = BitVec.ofNat 32 r1 := rfl
@[simp] theorem State.setResults_res2 (s : State) (r0 r1 r2 : Nat) : (s.setResults r0 r1 r2).res2 = BitVec.ofNat 32 r2 := rfl
@[simp] theorem State.setResults_leafCount (s : State) (r0 r1 r2 : Nat) : (s.setResults r0 r1 r2).leafCount = s.leafCount := rfl
@[simp] theorem State.setResults_nodeCount (s : State) (r0 r1 r2 : Nat) : (s.setResults r0 r1 r2).nodeCount = s.nodeCount := rfl
@[simp] theorem State.setResults_root (s : State) (r0 r1 r2 : Nat) : (s.setResults r0 r1 r2).root = s.root := rfl
@[simp] theorem State.setResults_dictCount (s : State) (r0 r1 r2 : Nat) : (s.setResults r0 r1 r2).dictCount = s.dictCount := rfl
@[simp] theorem State.setResults_weight (s : State) (r0 r1 r2 : Nat) : (s.setResults r0 r1 r2).weight = s.weight := rfl
@[simp] theorem State.setResults_node (s : State) (r0 r1 r2 : Nat) : (s.setResults r0 r1 r2).node = s.node := rfl
@[simp] theorem State.setResults_codeLen (s : State) (r0 r1 r2 : Nat) : (s.setResults r0 r1 r2).codeLen = s.codeLen := rfl
@[simp] theorem State.setResults_codeBits (s : State) (r0 r1 r2 : Nat) : (s.setResults r0 r1 r2).codeBits = s.codeBits := rfl
@[simp] theorem State.setResults_dictOrder (s : State) (r0 r1 r2 : Nat) : (s.setResults r0 r1 r2).dictOrder = s.dictOrder := rfl
@[simp] theorem State.setResults_buf (s : State) (r0 r1 r2 : Nat) : (s.setResults r0 r1 r2).buf = s.buf := rfl
@[simp] theorem State.setResults_engine (s : State) (r0 r1 r2 : Nat) : (s.setResults r0 r1 r2).engine = s.engine := rfl
@[simp] theorem State.setResults_bufLog (s : State) (r0 r1 r2 : Nat) : (s.setResults r0 r1 r2).bufLog = s.bufLog := rfl
@[simp] theorem State.setResults_inputs (s : State) (r0 r1 r2 : Nat) : (s.setResults r0 r1 r2).inputs = s.inputs := rfl
@[simp] theorem State.setResults_readData (s : State) (r0 r1 r2 : Nat) : (s.setResults r0 r1 r2).readData = s.readData := rfl
@[simp] theorem State.setResults_draws (s : State) (r0 r1 r2 : Nat) : (s.setResults r0 r1 r2).draws = s.draws := rfl

/-! ## State.clearDictionary -/

@[simp] theorem State.clearDictionary_arg0 (s : State) : s.clearDictionary.arg0 = s.arg0 := rfl
@[simp] theorem State.clearDictionary_arg1 (s : State) : s.clearDictionary.arg1 = s.arg1 := rfl
@[simp] theorem State.clearDictionary_arg2 (s : State) : s.clearDictionary.arg2 = s.arg2 := rfl
@[simp] theorem State.clearDictionary_codeStage (s : State) : s.clearDictionary.codeStage = s.codeStage := rfl
@[simp] theorem State.clearDictionary_done (s : State) : s.clearDictionary.done = s.done := rfl
@[simp] theorem State.clearDictionary_err (s : State) : s.clearDictionary.err = s.err := rfl
@[simp] theorem State.clearDictionary_rej (s : State) : s.clearDictionary.rej = s.rej := rfl
@[simp] theorem State.clearDictionary_treeValid (s : State) : s.clearDictionary.treeValid = s.treeValid := rfl
@[simp] theorem State.clearDictionary_irqEn (s : State) : s.clearDictionary.irqEn = s.irqEn := rfl
@[simp] theorem State.clearDictionary_lastCmd (s : State) : s.clearDictionary.lastCmd = s.lastCmd := rfl
@[simp] theorem State.clearDictionary_errCode (s : State) : s.clearDictionary.errCode = s.errCode := rfl
@[simp] theorem State.clearDictionary_errInfo (s : State) : s.clearDictionary.errInfo = s.errInfo := rfl
@[simp] theorem State.clearDictionary_res0 (s : State) : s.clearDictionary.res0 = s.res0 := rfl
@[simp] theorem State.clearDictionary_res1 (s : State) : s.clearDictionary.res1 = s.res1 := rfl
@[simp] theorem State.clearDictionary_res2 (s : State) : s.clearDictionary.res2 = s.res2 := rfl
@[simp] theorem State.clearDictionary_leafCount (s : State) : s.clearDictionary.leafCount = s.leafCount := rfl
@[simp] theorem State.clearDictionary_nodeCount (s : State) : s.clearDictionary.nodeCount = s.nodeCount := rfl
@[simp] theorem State.clearDictionary_root (s : State) : s.clearDictionary.root = s.root := rfl
@[simp] theorem State.clearDictionary_dictCount (s : State) : s.clearDictionary.dictCount = 0#32 := rfl
@[simp] theorem State.clearDictionary_weight (s : State) : s.clearDictionary.weight = s.weight := rfl
@[simp] theorem State.clearDictionary_node (s : State) : s.clearDictionary.node = s.node := rfl
@[simp] theorem State.clearDictionary_codeLen (s : State) : s.clearDictionary.codeLen = Vector.replicate 256 0#8 := rfl
@[simp] theorem State.clearDictionary_codeBits (s : State) : s.clearDictionary.codeBits = Vector.replicate 256 0#256 := rfl
@[simp] theorem State.clearDictionary_dictOrder (s : State) : s.clearDictionary.dictOrder = Vector.replicate 256 0#8 := rfl
@[simp] theorem State.clearDictionary_buf (s : State) : s.clearDictionary.buf = s.buf := rfl
@[simp] theorem State.clearDictionary_engine (s : State) : s.clearDictionary.engine = s.engine := rfl
@[simp] theorem State.clearDictionary_bufLog (s : State) : s.clearDictionary.bufLog = s.bufLog := rfl
@[simp] theorem State.clearDictionary_inputs (s : State) : s.clearDictionary.inputs = s.inputs := rfl
@[simp] theorem State.clearDictionary_readData (s : State) : s.clearDictionary.readData = s.readData := rfl
@[simp] theorem State.clearDictionary_draws (s : State) : s.clearDictionary.draws = s.draws := rfl

/-! ## State.addEntry -/

@[simp] theorem State.addEntry_arg0 (s : State) (x : Byte) (c : Bits) : (s.addEntry x c).arg0 = s.arg0 := rfl
@[simp] theorem State.addEntry_arg1 (s : State) (x : Byte) (c : Bits) : (s.addEntry x c).arg1 = s.arg1 := rfl
@[simp] theorem State.addEntry_arg2 (s : State) (x : Byte) (c : Bits) : (s.addEntry x c).arg2 = s.arg2 := rfl
@[simp] theorem State.addEntry_codeStage (s : State) (x : Byte) (c : Bits) : (s.addEntry x c).codeStage = s.codeStage := rfl
@[simp] theorem State.addEntry_done (s : State) (x : Byte) (c : Bits) : (s.addEntry x c).done = s.done := rfl
@[simp] theorem State.addEntry_err (s : State) (x : Byte) (c : Bits) : (s.addEntry x c).err = s.err := rfl
@[simp] theorem State.addEntry_rej (s : State) (x : Byte) (c : Bits) : (s.addEntry x c).rej = s.rej := rfl
@[simp] theorem State.addEntry_treeValid (s : State) (x : Byte) (c : Bits) : (s.addEntry x c).treeValid = s.treeValid := rfl
@[simp] theorem State.addEntry_irqEn (s : State) (x : Byte) (c : Bits) : (s.addEntry x c).irqEn = s.irqEn := rfl
@[simp] theorem State.addEntry_lastCmd (s : State) (x : Byte) (c : Bits) : (s.addEntry x c).lastCmd = s.lastCmd := rfl
@[simp] theorem State.addEntry_errCode (s : State) (x : Byte) (c : Bits) : (s.addEntry x c).errCode = s.errCode := rfl
@[simp] theorem State.addEntry_errInfo (s : State) (x : Byte) (c : Bits) : (s.addEntry x c).errInfo = s.errInfo := rfl
@[simp] theorem State.addEntry_res0 (s : State) (x : Byte) (c : Bits) : (s.addEntry x c).res0 = s.res0 := rfl
@[simp] theorem State.addEntry_res1 (s : State) (x : Byte) (c : Bits) : (s.addEntry x c).res1 = s.res1 := rfl
@[simp] theorem State.addEntry_res2 (s : State) (x : Byte) (c : Bits) : (s.addEntry x c).res2 = s.res2 := rfl
@[simp] theorem State.addEntry_leafCount (s : State) (x : Byte) (c : Bits) : (s.addEntry x c).leafCount = s.leafCount := rfl
@[simp] theorem State.addEntry_nodeCount (s : State) (x : Byte) (c : Bits) : (s.addEntry x c).nodeCount = s.nodeCount := rfl
@[simp] theorem State.addEntry_root (s : State) (x : Byte) (c : Bits) : (s.addEntry x c).root = s.root := rfl
@[simp] theorem State.addEntry_dictCount (s : State) (x : Byte) (c : Bits) : (s.addEntry x c).dictCount = s.dictCount + 1#32 := rfl
@[simp] theorem State.addEntry_weight (s : State) (x : Byte) (c : Bits) : (s.addEntry x c).weight = s.weight := rfl
@[simp] theorem State.addEntry_node (s : State) (x : Byte) (c : Bits) : (s.addEntry x c).node = s.node := rfl
@[simp] theorem State.addEntry_codeLen (s : State) (x : Byte) (c : Bits) : (s.addEntry x c).codeLen = tableSet s.codeLen x (BitVec.ofNat 8 c.length) := rfl
@[simp] theorem State.addEntry_codeBits (s : State) (x : Byte) (c : Bits) : (s.addEntry x c).codeBits = tableSet s.codeBits x (alignLeft 256 c) := rfl
@[simp] theorem State.addEntry_dictOrder (s : State) (x : Byte) (c : Bits) : (s.addEntry x c).dictOrder = s.dictOrder.setIfInBounds s.dictCount.toNat x := rfl
@[simp] theorem State.addEntry_buf (s : State) (x : Byte) (c : Bits) : (s.addEntry x c).buf = s.buf := rfl
@[simp] theorem State.addEntry_engine (s : State) (x : Byte) (c : Bits) : (s.addEntry x c).engine = s.engine := rfl
@[simp] theorem State.addEntry_bufLog (s : State) (x : Byte) (c : Bits) : (s.addEntry x c).bufLog = s.bufLog := rfl
@[simp] theorem State.addEntry_inputs (s : State) (x : Byte) (c : Bits) : (s.addEntry x c).inputs = s.inputs := rfl
@[simp] theorem State.addEntry_readData (s : State) (x : Byte) (c : Bits) : (s.addEntry x c).readData = s.readData := rfl
@[simp] theorem State.addEntry_draws (s : State) (x : Byte) (c : Bits) : (s.addEntry x c).draws = s.draws := rfl

/-! ## State.respond -/

@[simp] theorem State.respond_arg0 (s : State) (v : Word) : (s.respond v).arg0 = s.arg0 := rfl
@[simp] theorem State.respond_arg1 (s : State) (v : Word) : (s.respond v).arg1 = s.arg1 := rfl
@[simp] theorem State.respond_arg2 (s : State) (v : Word) : (s.respond v).arg2 = s.arg2 := rfl
@[simp] theorem State.respond_codeStage (s : State) (v : Word) : (s.respond v).codeStage = s.codeStage := rfl
@[simp] theorem State.respond_done (s : State) (v : Word) : (s.respond v).done = s.done := rfl
@[simp] theorem State.respond_err (s : State) (v : Word) : (s.respond v).err = s.err := rfl
@[simp] theorem State.respond_rej (s : State) (v : Word) : (s.respond v).rej = s.rej := rfl
@[simp] theorem State.respond_treeValid (s : State) (v : Word) : (s.respond v).treeValid = s.treeValid := rfl
@[simp] theorem State.respond_irqEn (s : State) (v : Word) : (s.respond v).irqEn = s.irqEn := rfl
@[simp] theorem State.respond_lastCmd (s : State) (v : Word) : (s.respond v).lastCmd = s.lastCmd := rfl
@[simp] theorem State.respond_errCode (s : State) (v : Word) : (s.respond v).errCode = s.errCode := rfl
@[simp] theorem State.respond_errInfo (s : State) (v : Word) : (s.respond v).errInfo = s.errInfo := rfl
@[simp] theorem State.respond_res0 (s : State) (v : Word) : (s.respond v).res0 = s.res0 := rfl
@[simp] theorem State.respond_res1 (s : State) (v : Word) : (s.respond v).res1 = s.res1 := rfl
@[simp] theorem State.respond_res2 (s : State) (v : Word) : (s.respond v).res2 = s.res2 := rfl
@[simp] theorem State.respond_leafCount (s : State) (v : Word) : (s.respond v).leafCount = s.leafCount := rfl
@[simp] theorem State.respond_nodeCount (s : State) (v : Word) : (s.respond v).nodeCount = s.nodeCount := rfl
@[simp] theorem State.respond_root (s : State) (v : Word) : (s.respond v).root = s.root := rfl
@[simp] theorem State.respond_dictCount (s : State) (v : Word) : (s.respond v).dictCount = s.dictCount := rfl
@[simp] theorem State.respond_weight (s : State) (v : Word) : (s.respond v).weight = s.weight := rfl
@[simp] theorem State.respond_node (s : State) (v : Word) : (s.respond v).node = s.node := rfl
@[simp] theorem State.respond_codeLen (s : State) (v : Word) : (s.respond v).codeLen = s.codeLen := rfl
@[simp] theorem State.respond_codeBits (s : State) (v : Word) : (s.respond v).codeBits = s.codeBits := rfl
@[simp] theorem State.respond_dictOrder (s : State) (v : Word) : (s.respond v).dictOrder = s.dictOrder := rfl
@[simp] theorem State.respond_buf (s : State) (v : Word) : (s.respond v).buf = s.buf := rfl
@[simp] theorem State.respond_engine (s : State) (v : Word) : (s.respond v).engine = s.engine := rfl
@[simp] theorem State.respond_bufLog (s : State) (v : Word) : (s.respond v).bufLog = s.bufLog := rfl
@[simp] theorem State.respond_inputs (s : State) (v : Word) : (s.respond v).inputs = s.inputs := rfl
@[simp] theorem State.respond_readData (s : State) (v : Word) : (s.respond v).readData = v := rfl
@[simp] theorem State.respond_draws (s : State) (v : Word) : (s.respond v).draws = s.draws := rfl

/-! ## State.respondFree -/

@[simp] theorem State.respondFree_arg0 (s : State) (size : AccessSize) : (s.respondFree size).arg0 = s.arg0 := rfl
@[simp] theorem State.respondFree_arg1 (s : State) (size : AccessSize) : (s.respondFree size).arg1 = s.arg1 := rfl
@[simp] theorem State.respondFree_arg2 (s : State) (size : AccessSize) : (s.respondFree size).arg2 = s.arg2 := rfl
@[simp] theorem State.respondFree_codeStage (s : State) (size : AccessSize) : (s.respondFree size).codeStage = s.codeStage := rfl
@[simp] theorem State.respondFree_done (s : State) (size : AccessSize) : (s.respondFree size).done = s.done := rfl
@[simp] theorem State.respondFree_err (s : State) (size : AccessSize) : (s.respondFree size).err = s.err := rfl
@[simp] theorem State.respondFree_rej (s : State) (size : AccessSize) : (s.respondFree size).rej = s.rej := rfl
@[simp] theorem State.respondFree_treeValid (s : State) (size : AccessSize) : (s.respondFree size).treeValid = s.treeValid := rfl
@[simp] theorem State.respondFree_irqEn (s : State) (size : AccessSize) : (s.respondFree size).irqEn = s.irqEn := rfl
@[simp] theorem State.respondFree_lastCmd (s : State) (size : AccessSize) : (s.respondFree size).lastCmd = s.lastCmd := rfl
@[simp] theorem State.respondFree_errCode (s : State) (size : AccessSize) : (s.respondFree size).errCode = s.errCode := rfl
@[simp] theorem State.respondFree_errInfo (s : State) (size : AccessSize) : (s.respondFree size).errInfo = s.errInfo := rfl
@[simp] theorem State.respondFree_res0 (s : State) (size : AccessSize) : (s.respondFree size).res0 = s.res0 := rfl
@[simp] theorem State.respondFree_res1 (s : State) (size : AccessSize) : (s.respondFree size).res1 = s.res1 := rfl
@[simp] theorem State.respondFree_res2 (s : State) (size : AccessSize) : (s.respondFree size).res2 = s.res2 := rfl
@[simp] theorem State.respondFree_leafCount (s : State) (size : AccessSize) : (s.respondFree size).leafCount = s.leafCount := rfl
@[simp] theorem State.respondFree_nodeCount (s : State) (size : AccessSize) : (s.respondFree size).nodeCount = s.nodeCount := rfl
@[simp] theorem State.respondFree_root (s : State) (size : AccessSize) : (s.respondFree size).root = s.root := rfl
@[simp] theorem State.respondFree_dictCount (s : State) (size : AccessSize) : (s.respondFree size).dictCount = s.dictCount := rfl
@[simp] theorem State.respondFree_weight (s : State) (size : AccessSize) : (s.respondFree size).weight = s.weight := rfl
@[simp] theorem State.respondFree_node (s : State) (size : AccessSize) : (s.respondFree size).node = s.node := rfl
@[simp] theorem State.respondFree_codeLen (s : State) (size : AccessSize) : (s.respondFree size).codeLen = s.codeLen := rfl
@[simp] theorem State.respondFree_codeBits (s : State) (size : AccessSize) : (s.respondFree size).codeBits = s.codeBits := rfl
@[simp] theorem State.respondFree_dictOrder (s : State) (size : AccessSize) : (s.respondFree size).dictOrder = s.dictOrder := rfl
@[simp] theorem State.respondFree_buf (s : State) (size : AccessSize) : (s.respondFree size).buf = s.buf := rfl
@[simp] theorem State.respondFree_engine (s : State) (size : AccessSize) : (s.respondFree size).engine = s.engine := rfl
@[simp] theorem State.respondFree_bufLog (s : State) (size : AccessSize) : (s.respondFree size).bufLog = s.bufLog := rfl
@[simp] theorem State.respondFree_inputs (s : State) (size : AccessSize) : (s.respondFree size).inputs = s.inputs := rfl
@[simp] theorem State.respondFree_readData (s : State) (size : AccessSize) : (s.respondFree size).readData = freeRead s.draws size := rfl
@[simp] theorem State.respondFree_draws (s : State) (size : AccessSize) : (s.respondFree size).draws = s.draws + 1 := rfl

/-! ## State.placeCommand -/

@[simp] theorem State.placeCommand_arg0 (s : State) (w : Word) : (s.placeCommand w).arg0 = s.arg0 := rfl
@[simp] theorem State.placeCommand_arg1 (s : State) (w : Word) : (s.placeCommand w).arg1 = s.arg1 := rfl
@[simp] theorem State.placeCommand_arg2 (s : State) (w : Word) : (s.placeCommand w).arg2 = s.arg2 := rfl
@[simp] theorem State.placeCommand_codeStage (s : State) (w : Word) : (s.placeCommand w).codeStage = s.codeStage := rfl
@[simp] theorem State.placeCommand_done (s : State) (w : Word) : (s.placeCommand w).done = false := rfl
@[simp] theorem State.placeCommand_err (s : State) (w : Word) : (s.placeCommand w).err = s.err := rfl
@[simp] theorem State.placeCommand_rej (s : State) (w : Word) : (s.placeCommand w).rej = s.rej := rfl
@[simp] theorem State.placeCommand_treeValid (s : State) (w : Word) : (s.placeCommand w).treeValid = s.treeValid := rfl
@[simp] theorem State.placeCommand_irqEn (s : State) (w : Word) : (s.placeCommand w).irqEn = s.irqEn := rfl
@[simp] theorem State.placeCommand_lastCmd (s : State) (w : Word) : (s.placeCommand w).lastCmd = w := rfl
@[simp] theorem State.placeCommand_errCode (s : State) (w : Word) : (s.placeCommand w).errCode = s.errCode := rfl
@[simp] theorem State.placeCommand_errInfo (s : State) (w : Word) : (s.placeCommand w).errInfo = s.errInfo := rfl
@[simp] theorem State.placeCommand_res0 (s : State) (w : Word) : (s.placeCommand w).res0 = s.res0 := rfl
@[simp] theorem State.placeCommand_res1 (s : State) (w : Word) : (s.placeCommand w).res1 = s.res1 := rfl
@[simp] theorem State.placeCommand_res2 (s : State) (w : Word) : (s.placeCommand w).res2 = s.res2 := rfl
@[simp] theorem State.placeCommand_leafCount (s : State) (w : Word) : (s.placeCommand w).leafCount = s.leafCount := rfl
@[simp] theorem State.placeCommand_nodeCount (s : State) (w : Word) : (s.placeCommand w).nodeCount = s.nodeCount := rfl
@[simp] theorem State.placeCommand_root (s : State) (w : Word) : (s.placeCommand w).root = s.root := rfl
@[simp] theorem State.placeCommand_dictCount (s : State) (w : Word) : (s.placeCommand w).dictCount = s.dictCount := rfl
@[simp] theorem State.placeCommand_weight (s : State) (w : Word) : (s.placeCommand w).weight = s.weight := rfl
@[simp] theorem State.placeCommand_node (s : State) (w : Word) : (s.placeCommand w).node = s.node := rfl
@[simp] theorem State.placeCommand_codeLen (s : State) (w : Word) : (s.placeCommand w).codeLen = s.codeLen := rfl
@[simp] theorem State.placeCommand_codeBits (s : State) (w : Word) : (s.placeCommand w).codeBits = s.codeBits := rfl
@[simp] theorem State.placeCommand_dictOrder (s : State) (w : Word) : (s.placeCommand w).dictOrder = s.dictOrder := rfl
@[simp] theorem State.placeCommand_buf (s : State) (w : Word) : (s.placeCommand w).buf = s.buf := rfl
@[simp] theorem State.placeCommand_engine (s : State) (w : Word) : (s.placeCommand w).engine = some (s.privateCopies w) := rfl
@[simp] theorem State.placeCommand_bufLog (s : State) (w : Word) : (s.placeCommand w).bufLog = s.bufLog := rfl
@[simp] theorem State.placeCommand_inputs (s : State) (w : Word) : (s.placeCommand w).inputs = .complete :: s.inputs := rfl
@[simp] theorem State.placeCommand_readData (s : State) (w : Word) : (s.placeCommand w).readData = s.readData := rfl
@[simp] theorem State.placeCommand_draws (s : State) (w : Word) : (s.placeCommand w).draws = s.draws := rfl

end Sys2Proof.Machine
end

