-- ==== Sys2Proof/Laws/Bits.lean ====
section
/-! SUPPORT. Bit strings, their layout in bytes and words, and the tables indexed by symbol. -/

namespace Sys2Proof.Machine

/-! ## Bits of a word -/

@[simp] theorem length_bitsOf {n : Nat} (w : BitVec n) : (bitsOf w).length = n := by simp [bitsOf]

/-- Bit i of `bitsOf w`, counted from the most significant. -/
theorem getElem_bitsOf {n : Nat} (w : BitVec n) (i : Nat) (h : i < (bitsOf w).length) :
    (bitsOf w)[i] = w.getMsbD i := by simp [bitsOf]

@[simp] theorem length_zeros (n : Nat) : (zeros n).length = n := by simp [zeros]

theorem bitsValue_append (c : Bits) (b : Bool) : bitsValue (c ++ [b]) = 2 * bitsValue c + b.toNat := by
  simp [bitsValue]

/-- The binary digits of `bitsValue c`, the last bit of c first. -/
theorem testBit_bitsValue (c : Bits) (j : Nat) : (bitsValue c).testBit j = c.reverse.getD j false := by
  have key : ∀ (l : Bits) (j : Nat), (bitsValue l.reverse).testBit j = l.getD j false := by
    intro l
    induction l with
    | nil => simp [bitsValue]
    | cons b l ih =>
      intro j
      rw [List.reverse_cons, bitsValue_append]
      cases j with
      | zero => cases b <;> simp [Nat.testBit_zero]
      | succ j =>
        rw [Nat.testBit_succ, show (2 * bitsValue l.reverse + b.toNat) / 2 = bitsValue l.reverse from by
          cases b <;> simp <;> omega]
        simpa using ih j
  simpa using key c.reverse j

/-- A left-aligned code: bit i is bit i of the code, and 0 past its end (R22, R35). -/
theorem getMsbD_alignLeft {n i : Nat} (c : Bits) (h : i < n) :
    (alignLeft n c).getMsbD i = c.getD i false := by
  have hl : ((c ++ zeros n).take n).length = n := by simp
  have h2 : n - 1 - i < n := by omega
  rw [alignLeft, BitVec.getMsbD, BitVec.getLsbD_ofNat, testBit_bitsValue]
  simp only [h, h2, decide_true, Bool.true_and]
  rw [List.getD_eq_getElem?_getD, List.getElem?_reverse (by omega), hl,
    show n - 1 - (n - 1 - i) = i from by omega, List.getElem?_take_of_lt h]
  by_cases hc : i < c.length
  · rw [List.getElem?_append_left hc, List.getD_eq_getElem?_getD]
  · rw [List.getElem?_append_right (by omega), List.getD_eq_getElem?_getD,
      List.getElem?_eq_none (by omega : c.length ≤ i)]
    simp only [zeros, List.getElem?_replicate]
    split <;> rfl

/-- The bits of a left-aligned code that is not too long: the code, then zeros. -/
theorem bitsOf_alignLeft {n : Nat} (c : Bits) (h : c.length ≤ n) :
    bitsOf (alignLeft n c) = c ++ zeros (n - c.length) := by
  apply List.ext_getElem
  · simp; omega
  · intro i h1 h2
    have hi : i < n := by simpa using h1
    rw [getElem_bitsOf, getMsbD_alignLeft c hi]
    by_cases hc : i < c.length
    · simp [hc]
    · rw [List.getElem_append_right (by omega)]
      simp [zeros, show c.length ≤ i from by omega]

@[simp] theorem length_packBytes (k : Nat) (b : Bits) : (packBytes k b).length = k := by
  induction k generalizing b with
  | zero => rfl
  | succ k ih => simp [packBytes, ih]

/-! ## Symbols and tables -/

theorem mem_symbols (x : Byte) : x ∈ symbols := by
  refine List.mem_map.2 ⟨x.toNat, ?_, by simp⟩
  exact List.mem_range.2 x.isLt

theorem tableGet_tableSet {α : Type} (t : Vector α 256) (x y : Byte) (a : α) :
    tableGet (tableSet t x a) y = if y = x then a else tableGet t y := by
  unfold tableGet tableSet
  by_cases h : y = x
  · subst h
    simp
  · have : x.toNat ≠ y.toNat := fun e => h (BitVec.eq_of_toNat_eq e.symm)
    rw [if_neg h]
    exact Vector.getElem_set_ne (by exact x.isLt) (by exact y.isLt) this

@[simp] theorem tableGet_replicate {α : Type} (x : Byte) (a : α) :
    tableGet (Vector.replicate 256 a) x = a := by simp [tableGet]

/-! ## Codes -/

/-- The length of a code is CODE_LEN (R35). -/
@[simp] theorem length_code (s : State) (x : Byte) :
    (s.code x).length = (tableGet s.codeLen x).toNat := by simp [State.code]

/-- The code of an entry is not empty (R36 item 4). -/
theorem code_ne_nil {s : State} {x : Byte} (h : s.hasEntry x = true) : s.code x ≠ [] := by
  intro e
  have hl : (tableGet s.codeLen x).toNat = 0 := by rw [← length_code, e]; rfl
  have : tableGet s.codeLen x = 0#8 := BitVec.eq_of_toNat_eq (by simpa using hl)
  simp [State.hasEntry, this] at h

@[simp] theorem length_stageBits (stage : Vector Word 8) : (stageBits stage).length = 256 := by
  have h : ∀ l : List Word, (l.flatMap bitsOf).length = 32 * l.length := by
    intro l
    induction l with
    | nil => rfl
    | cons w l ih =>
      rw [List.flatMap_cons, List.length_append, ih, length_bitsOf, List.length_cons]
      omega
  rw [stageBits, h]
  simp

/-- The staged code has the length DADD gives (R22). -/
@[simp] theorem length_stagedCode (s : State) (l : Byte) : (s.stagedCode l).length = l.toNat := by
  simp [State.stagedCode]
  have := l.isLt
  omega

/-- After an entry is added, its symbol has the code given, and every other symbol what it had. -/
theorem code_addEntry (s : State) (x y : Byte) (c : Bits) (h : c.length < 256) :
    (s.addEntry x c).code y = if y = x then c else s.code y := by
  by_cases hy : y = x
  · subst hy
    rw [if_pos rfl]
    apply List.ext_getElem
    · rw [length_code, State.addEntry_codeLen, tableGet_tableSet, if_pos rfl]
      simpa using h
    · intro i h1 h2
      simp only [State.code, State.addEntry, tableGet_tableSet, if_true, List.getElem_map,
        List.getElem_range]
      rw [getMsbD_alignLeft c (by omega)]
      simp [h2]
  · rw [if_neg hy]
    simp only [State.code, State.addEntry_codeLen, State.addEntry_codeBits, tableGet_tableSet, if_neg hy]

theorem hasEntry_addEntry (s : State) (x y : Byte) (c : Bits) (h : c.length < 256) (h0 : c ≠ []) :
    (s.addEntry x c).hasEntry y = if y = x then true else s.hasEntry y := by
  by_cases hy : y = x
  · subst hy
    have hl : c.length ≠ 0 := by simpa using h0
    have : BitVec.ofNat 8 c.length ≠ 0#8 := by
      intro e
      have e' := congrArg BitVec.toNat e
      simp [Nat.mod_eq_of_lt h] at e'
      exact h0 e'
    simp only [State.hasEntry, State.addEntry_codeLen, tableGet_tableSet, if_true]
    simpa using this
  · simp only [State.hasEntry, State.addEntry_codeLen, tableGet_tableSet, if_neg hy]

/-! ## The payload -/

@[simp] theorem length_payload (b : Bits) : (payload b).length = dataBytes b.length + 1 := by
  simp [payload]

/-- The metadata byte and the bits it leaves out add up to whole bytes (R171). -/
theorem metaByte_spec (t : Nat) :
    (t = 0 ∧ dataBytes t = 0 ∧ metaByte t = 0) ∨
    (0 < t ∧ 1 ≤ dataBytes t ∧ 1 ≤ metaByte t ∧ metaByte t ≤ 8 ∧
      t = 8 * (dataBytes t - 1) + metaByte t) := by
  unfold metaByte dataBytes
  by_cases h : t = 0
  · left
    subst h
    simp
  · right
    simp only [h, if_false]
    omega

end Sys2Proof.Machine
end

