-- ==== Sys2Proof/Laws/Bus.lean ====
section
/-! SUPPORT. Everything a host access can do, said once. -/

namespace Sys2Proof.Machine

/-- A STATUS, CMD or IRQ_EN write, or a plain register write, leaves BUF, the engine's inputs and BUF_BYTES
alone. -/
theorem writeReg_frame (s : State) (v : Word) (r : Reg) :
    (s.writeReg v r).buf = s.buf ∧ (s.writeReg v r).bufLog = s.bufLog ∧
      (s.writeReg v r).inputs = s.inputs ∧ (s.writeReg v r).draws = s.draws ∧
      (s.writeReg v r).readData = s.readData := by
  cases r <;> simp [State.writeReg, State.issue] <;> (repeat' split) <;> simp

/-- The node arena and the dictionary are read only to the host (R33, R35). -/
theorem writeReg_tables (s : State) (v : Word) (r : Reg) :
    (s.writeReg v r).node = s.node ∧ (s.writeReg v r).leafCount = s.leafCount ∧
      (s.writeReg v r).nodeCount = s.nodeCount ∧ (s.writeReg v r).root = s.root ∧
      (s.writeReg v r).treeValid = s.treeValid ∧ (s.writeReg v r).codeLen = s.codeLen ∧
      (s.writeReg v r).codeBits = s.codeBits ∧ (s.writeReg v r).dictOrder = s.dictOrder ∧
      (s.writeReg v r).dictCount = s.dictCount := by
  cases r <;> simp [State.writeReg, State.issue] <;> (repeat' split) <;> simp

/-- A read that answers changes the read data and the draw count and nothing else (R77, R234). -/
theorem hostRead_next {off : BitVec 17} {size : AccessSize} {s t : State}
    (h : hostRead off size s = .next t) : (∃ v, t = s.respond v) ∨ t = s.respondFree size := by
  unfold hostRead at h
  split at h
  · exact .inl ⟨_, by simpa using h.symm⟩
  · split at h
    · exact .inr (by simpa using h.symm)
    · exact .inl ⟨_, by simpa using h.symm⟩
  · split at h
    · exact .inr (by simpa using h.symm)
    · exact .inl ⟨_, by simpa using h.symm⟩
  · split at h
    · exact .inr (by simpa using h.symm)
    · unfold readBufByte at h
      split at h
      · exact .inl ⟨_, by simpa using h.symm⟩
      · cases h
  · split at h
    · exact .inr (by simpa using h.symm)
    · unfold readBufWord at h
      split at h
      · exact .inl ⟨_, by simpa using h.symm⟩
      all_goals cases h

/-- A read that stops reads an unwritten BUF byte with no command running (R85). -/
theorem hostRead_fault {off : BitVec 17} {size : AccessSize} {s : State} {f : Fault}
    (h : hostRead off size s = .fault f) :
    s.busy = false ∧ ∃ a, f = .unwrittenBufByte a ∧ Memory.read s.buf a = none := by
  unfold hostRead at h
  split at h
  · cases h
  · split at h <;> cases h
  · split at h <;> cases h
  · split at h
    · cases h
    · rename_i hb
      refine ⟨by simpa using hb, ?_⟩
      unfold readBufByte at h
      split at h
      · cases h
      · exact ⟨_, by simpa using h.symm, by assumption⟩
  · split at h
    · cases h
    · rename_i hb
      refine ⟨by simpa using hb, ?_⟩
      unfold readBufWord at h
      split at h
      · cases h
      all_goals exact ⟨_, by simpa using h.symm, by assumption⟩

/-- Where a BUF access goes: a byte of BUF, or a whole aligned word of it (R71). -/
theorem target_buf {s : State} {off : BitVec 17} {size : AccessSize} {a : Nat} :
    (s.target off size = .bufByte a → a + 1 ≤ s.bufBytes) ∧
      (s.target off size = .bufWord a → a + 4 ≤ s.bufBytes) := by
  have hpow : s.bufBytes % 4 = 0 := by
    unfold State.bufBytes
    rw [Nat.pow_add]
    omega
  constructor
  · intro h
    cases size <;> simp only [State.target] at h
    · split at h
      · cases h
      · split at h
        · rename_i hlt
          have ha : off.toNat - bufBase = a := by simpa using h
          omega
        · cases h
    · cases h
    · split at h
      · split at h
        · split at h <;> cases h
        · cases h
      · split at h
        · split at h <;> cases h
        · cases h
  · intro h
    cases size <;> simp only [State.target] at h
    · split at h
      · cases h
      · split at h <;> cases h
    · cases h
    · split at h
      · split at h
        · split at h <;> cases h
        · cases h
      · split at h
        · rename_i hlt
          split at h
          · rename_i hm
            have ha : off.toNat - bufBase = a := by simpa using h
            simp only [bufBase] at *
            omega
          · cases h
        · cases h

/-- What a write that answers did: nothing, a register write, or bytes stored in BUF (R71, R75, R76). -/
theorem hostWrite_next {off : BitVec 17} {size : AccessSize} {v : Word} {s t : State}
    (h : hostWrite off size v s = .next t) :
    t = s ∨ (∃ r, t = s.writeReg v r ∧ (s.busy = true → r.writableWhileBusy = true)) ∨
      (s.busy = false ∧ ∃ a vs, t = s.bufWriteList a vs ∧ a + vs.length ≤ s.bufBytes) := by
  unfold hostWrite at h
  split at h
  · exact .inl (by simpa using h.symm)
  · split at h
    · cases h
    · exact .inl (by simpa using h.symm)
  · rename_i r _
    split at h
    · cases h
    · rename_i hb
      refine .inr (.inl ⟨r, by simpa using h.symm, ?_⟩)
      intro hbusy
      simpa [hbusy] using hb
  · rename_i a ht
    split at h
    · cases h
    · rename_i hb
      exact .inr (.inr ⟨by simpa using hb, a, [byteOfWord v 0], by simpa using h.symm, target_buf.1 ht⟩)
  · rename_i a ht
    split at h
    · cases h
    · rename_i hb
      exact .inr (.inr ⟨by simpa using hb, a, bytesOfWord v, by simpa using h.symm, target_buf.2 ht⟩)

/-- A write that stops is a write of R233. -/
theorem hostWrite_fault {off : BitVec 17} {size : AccessSize} {v : Word} {s : State} {f : Fault}
    (h : hostWrite off size v s = .fault f) : s.busy = true ∧ f = .writeWhileBusy off := by
  unfold hostWrite at h
  split at h
  · cases h
  all_goals
    split at h
    · rename_i hb
      refine ⟨?_, by simpa using h.symm⟩
      revert hb
      cases s.busy <;> simp
    · cases h

theorem serve_not_refused (t : Transaction) (s : State) (x : Refusal) : serve t s ≠ .refused x := by
  cases t with
  | read off size =>
    simp only [serve]
    unfold hostRead readBufByte readBufWord
    repeat' split
    all_goals simp
  | write off size v =>
    simp only [serve]
    unfold hostWrite
    repeat' split
    all_goals simp

/-! ## Where an offset goes -/

/-- An offset of BUF, as a transaction carries it. -/
theorem toNat_bufOffset {s : State} {a : Nat} (h : a < s.bufBytes) : (bufOffset a).toNat = bufBase + a := by
  have hb : s.bufBytes ≤ 2 ^ 16 :=
    Nat.pow_le_pow_right (by decide) (by have := s.bufLog.isLt; omega)
  simp [bufOffset, bufBase]
  omega

/-- A byte access at an offset of BUF reaches that byte. -/
theorem target_bufOffset_byte {s : State} {a : Nat} (h : a < s.bufBytes) :
    s.target (bufOffset a) .byte = .bufByte a := by
  simp only [State.target, toNat_bufOffset h]
  rw [if_neg (by omega), if_pos (by omega), Nat.add_sub_cancel_left]

/-- A word access at an aligned offset of BUF reaches that word. -/
theorem target_bufOffset_word {s : State} {a : Nat} (h : a + 4 ≤ s.bufBytes) (h4 : a % 4 = 0) :
    s.target (bufOffset a) .word = .bufWord a := by
  simp only [State.target, toNat_bufOffset (show a < s.bufBytes by omega), bufBase]
  rw [if_neg (by omega), if_pos (by omega), if_pos (by omega), Nat.add_sub_cancel_left]

end Sys2Proof.Machine
end

