-- ==== Sys2Proof/Laws/Encoding.lean ====
section
/-! SUPPORT. The fields of a word built in format F0 (R90), and the word of the DADD statement (R96). -/

namespace Sys2Proof

theorem toNat_formatF0 (rsv len sym opc : Byte) : (formatF0 rsv len sym opc).toNat =
    rsv.toNat * 2 ^ 24 + len.toNat * 2 ^ 16 + sym.toNat * 2 ^ 8 + opc.toNat := by
  have := rsv.isLt
  have := len.isLt
  have := sym.isLt
  have := opc.isLt
  rw [formatF0, BitVec.toNat_ofNat]
  omega

theorem toNat_field (w : Word) (lo : Nat) : (w.extractLsb' lo 8).toNat = w.toNat / 2 ^ lo % 2 ^ 8 := by
  rw [BitVec.extractLsb'_toNat, Nat.shiftRight_eq_div_pow]

@[simp] theorem opcField_formatF0 (rsv len sym opc : Byte) : opcField (formatF0 rsv len sym opc) = opc := by
  apply BitVec.eq_of_toNat_eq
  rw [opcField, toNat_field, toNat_formatF0]
  have := opc.isLt
  omega

@[simp] theorem symField_formatF0 (rsv len sym opc : Byte) : symField (formatF0 rsv len sym opc) = sym := by
  apply BitVec.eq_of_toNat_eq
  rw [symField, toNat_field, toNat_formatF0]
  have := opc.isLt
  have := sym.isLt
  omega

@[simp] theorem lenField_formatF0 (rsv len sym opc : Byte) : lenField (formatF0 rsv len sym opc) = len := by
  apply BitVec.eq_of_toNat_eq
  rw [lenField, toNat_field, toNat_formatF0]
  have := opc.isLt
  have := sym.isLt
  have := len.isLt
  omega

@[simp] theorem rsvField_formatF0 (rsv len sym opc : Byte) : rsvField (formatF0 rsv len sym opc) = rsv := by
  apply BitVec.eq_of_toNat_eq
  rw [rsvField, toNat_field, toNat_formatF0]
  have := opc.isLt
  have := sym.isLt
  have := len.isLt
  have := rsv.isLt
  omega

/-- A word is put together again from its four fields (R90). -/
theorem formatF0_fields (w : Word) : formatF0 (rsvField w) (lenField w) (symField w) (opcField w) = w := by
  apply BitVec.eq_of_toNat_eq
  rw [toNat_formatF0, rsvField, lenField, symField, opcField, toNat_field, toNat_field, toNat_field,
    toNat_field]
  have := w.isLt
  omega

/-- R96's word of DADD is the command's encoding for every length LEN can hold. -/
theorem daddWord_eq_encode (x : Byte) {len : Nat} (h : len < 256) :
    Machine.daddWord x len = encode (.dadd x (BitVec.ofNat 8 len)) := by
  have hl : (BitVec.ofNat 8 len).toNat = len := by simp; omega
  simp [Machine.daddWord, encode, formatF0, lenOf, symOf, opcodeOf, hl]

/-- R96's word of DADD with a length of 256 to 65535 is illegal (R93, D7). -/
theorem daddWord_illegal (x : Byte) {len : Nat} (h : 256 ≤ len) (h' : len < 65536) :
    legalWord (Machine.daddWord x len) = false := by
  have hx := x.isLt
  have hw : (Machine.daddWord x len).toNat = len * 2 ^ 16 + x.toNat * 2 ^ 8 + 0x21 := by
    simp only [Machine.daddWord, BitVec.toNat_ofNat]
    omega
  have h1 : unusedFieldsZero (Machine.daddWord x len) = false := by
    rw [unusedFieldsZero, hw, if_pos (by omega), beq_eq_false_iff_ne]
    omega
  simp [legalWord, h1]

end Sys2Proof
end

