-- ==== Sys2Proof/Laws/Memory.lean ====
section
/-! SUPPORT. BUF: a read after a write, and the canonical form, which every memory operation keeps. -/

namespace Sys2Proof.Machine

@[simp] theorem Memory.read_nil (a : Nat) : Memory.read [] a = none := rfl

theorem Memory.wf_nil : Memory.wf [] := List.Pairwise.nil

@[simp] theorem Memory.writeList_nil (m : Memory) (a : Nat) : Memory.writeList m a [] = m := by
  cases m <;> rfl

@[simp] theorem Memory.writeList_cons (m : Memory) (a : Nat) (v : Byte) (vs : List Byte) :
    Memory.writeList m a (v :: vs) = Memory.writeList (Memory.write m a v) (a + 1) vs := by
  cases m <;> rfl

/-- Every offset listed after a write is the one written or was listed before. -/
theorem Memory.mem_write {m : Memory} {a : Nat} {v : Byte} {c : Host.Cell} :
    c ∈ Memory.write m a v → c = (a, v) ∨ c ∈ m := by
  induction m with
  | nil => simp [Memory.write]
  | cons d m ih =>
    obtain ⟨b, w⟩ := d
    unfold Memory.write
    split
    · simp
    · split
      · simp only [List.mem_cons]
        rintro (h | h)
        · exact .inl h
        · exact .inr (.inr h)
      · simp only [List.mem_cons]
        rintro (h | h)
        · exact .inr (.inl h)
        · rcases ih h with h | h
          · exact .inl h
          · exact .inr (.inr h)

/-- A write keeps the canonical form. -/
theorem Memory.wf_write {m : Memory} (h : Memory.wf m) (a : Nat) (v : Byte) :
    Memory.wf (Memory.write m a v) := by
  induction m with
  | nil => simp [Memory.write, Memory.wf]
  | cons d m ih =>
    obtain ⟨b, w⟩ := d
    obtain ⟨hb, hm⟩ := List.pairwise_cons.1 h
    unfold Memory.write
    split
    · rename_i hab
      refine List.pairwise_cons.2 ⟨?_, h⟩
      intro c hc
      rcases List.mem_cons.1 hc with rfl | hc
      · exact hab
      · exact Nat.lt_trans hab (hb c hc)
    · split
      · rename_i _ hab
        subst hab
        exact List.pairwise_cons.2 ⟨hb, hm⟩
      · refine List.pairwise_cons.2 ⟨?_, ih hm⟩
        intro c hc
        rcases Memory.mem_write hc with rfl | hc
        · show b < a
          omega
        · exact hb c hc

/-- Storing bytes one after the other keeps the canonical form. -/
theorem Memory.wf_writeList {m : Memory} (h : Memory.wf m) (a : Nat) (vs : List Byte) :
    Memory.wf (Memory.writeList m a vs) := by
  induction vs generalizing m a with
  | nil => simpa using h
  | cons v vs ih => simpa using ih (Memory.wf_write h a v) (a + 1)

/-- Nothing is listed below the first offset of a canonical memory. -/
theorem Memory.read_of_lt {m : Memory} {a : Nat} (h : ∀ c ∈ m, a < c.1) : Memory.read m a = none := by
  induction m with
  | nil => rfl
  | cons d m ih =>
    obtain ⟨b, w⟩ := d
    have hb : a < b := h (b, w) (by simp)
    have : a ≠ b := by omega
    simp [Memory.read, this]
    exact ih (fun c hc => h c (by simp [hc]))

/-- A read after a write: the written byte at its offset, what was there before elsewhere. -/
theorem Memory.read_write (m : Memory) (a b : Nat) (v : Byte) :
    Memory.read (Memory.write m a v) b = if b = a then some v else Memory.read m b := by
  induction m with
  | nil => simp [Memory.write, Memory.read]
  | cons d m ih =>
    obtain ⟨e, w⟩ := d
    unfold Memory.write
    split
    · simp [Memory.read]
    · split
      · rename_i _ hae
        subst hae
        by_cases hb : b = a <;> simp [Memory.read, hb]
      · rename_i _ hae
        by_cases hb : b = e
        · subst hb
          simp [Memory.read, Ne.symm hae]
        · simp [Memory.read, hb, ih]

/-- A read after storing bytes from a on: byte b − a inside the stored region, as before outside. -/
theorem Memory.read_writeList (m : Memory) (a b : Nat) (vs : List Byte) :
    Memory.read (Memory.writeList m a vs) b =
      if a ≤ b ∧ b < a + vs.length then vs[b - a]? else Memory.read m b := by
  induction vs generalizing m a with
  | nil =>
    rw [if_neg (by simp only [List.length_nil]; omega)]
    simp
  | cons v vs ih =>
    rw [Memory.writeList_cons, ih, Memory.read_write]
    simp only [List.length_cons]
    by_cases h1 : a + 1 ≤ b ∧ b < a + 1 + vs.length
    · have h2 : a ≤ b ∧ b < a + (vs.length + 1) := by omega
      have h3 : b - a = (b - (a + 1)) + 1 := by omega
      rw [if_pos h1, if_pos h2, h3]
      simp
    · rw [if_neg h1]
      by_cases h4 : b = a
      · have h2 : a ≤ b ∧ b < a + (vs.length + 1) := by omega
        rw [if_pos h4, if_pos h2]
        simp [h4]
      · have h2 : ¬ (a ≤ b ∧ b < a + (vs.length + 1)) := by omega
        rw [if_neg h4, if_neg h2]

/-- Outside the stored bytes every byte reads as before. -/
theorem Memory.read_writeList_outside {m : Memory} {a b : Nat} {vs : List Byte}
    (h : b < a ∨ a + vs.length ≤ b) : Memory.read (Memory.writeList m a vs) b = Memory.read m b := by
  rw [Memory.read_writeList, if_neg (by omega)]

/-- Inside the stored bytes the stored byte is read. -/
theorem Memory.read_writeList_inside {m : Memory} {a i : Nat} {vs : List Byte} (h : i < vs.length) :
    Memory.read (Memory.writeList m a vs) (a + i) = some vs[i] := by
  rw [Memory.read_writeList, if_pos (by omega)]
  simp [h]

/-- Every offset listed after storing bytes is one of theirs or was listed before. -/
theorem Memory.mem_writeList {m : Memory} {a : Nat} {vs : List Byte} {c : Host.Cell} :
    c ∈ Memory.writeList m a vs → (a ≤ c.1 ∧ c.1 < a + vs.length) ∨ c ∈ m := by
  induction vs generalizing m a with
  | nil =>
    intro h
    exact .inr (by simpa using h)
  | cons v vs ih =>
    rw [Memory.writeList_cons]
    intro h
    rcases ih h with h | h
    · left
      simp only [List.length_cons]
      omega
    · rcases Memory.mem_write h with rfl | h
      · left
        simp
      · exact .inr h

/-- A byte that was written stays written. -/
theorem Memory.read_writeList_isSome {m : Memory} {a b : Nat} {vs : List Byte}
    (h : (Memory.read m b).isSome) : (Memory.read (Memory.writeList m a vs) b).isSome := by
  rw [Memory.read_writeList]
  split
  · rename_i hb
    have : b - a < vs.length := by omega
    simp [this]
  · exact h

end Sys2Proof.Machine
end

