-- ==== Sys2Proof/Laws/Exec.lean ====
section
/-! SUPPORT. Everything a completion, a BUF read and a step can do, said once. -/

namespace Sys2Proof.Machine

/-! ## Completion -/

@[simp] theorem complete_ok (s t : State) : complete s (.ok t) = .next t.commit := rfl

@[simp] theorem complete_raise (s : State) (k : ErrKind) (info : Word) :
    complete s (.error (.raise k info)) = .next (s.raise k info) := rfl

@[simp] theorem complete_fault (s : State) (f : Fault) :
    complete s (.error (.fault f)) = .fault f := rfl

/-- A completion that answers a next state committed or raised. -/
theorem complete_next {s t : State} {r : Except Stop State} (h : complete s r = .next t) :
    (∃ u, r = .ok u ∧ t = u.commit) ∨ (∃ k info, r = .error (.raise k info) ∧ t = s.raise k info) := by
  match r with
  | .ok u => exact .inl ⟨u, rfl, by simpa using h.symm⟩
  | .error (.raise k info) => exact .inr ⟨k, info, rfl, by simpa using h.symm⟩
  | .error (.fault f) => simp at h

/-- A completion that faults is a rule that reads an unwritten byte. -/
theorem complete_faults {s : State} {r : Except Stop State} {f : Fault} (h : complete s r = .fault f) :
    r = .error (.fault f) := by
  match r with
  | .ok u => simp at h
  | .error (.raise k info) => simp at h
  | .error (.fault g) => simpa using h

theorem complete_not_refused (s : State) (r : Except Stop State) (x : Refusal) :
    complete s r ≠ .refused x := by
  match r with
  | .ok u => simp
  | .error (.raise k info) => simp
  | .error (.fault f) => simp

/-- The rule of each command, before its completion. -/
def body : Instr → State → Except Stop State
  | .nop, s => .ok s
  | .sreset, s => .ok (sresetStaged s)
  | .wclear, s => .ok (wclearStaged s)
  | .build, s => buildBody s
  | .gen, s => genBody s
  | .dclear, s => .ok s.clearDictionary
  | .dadd sym len, s => daddBody sym len s
  | .pack, s => packBody s
  | .unpack, s => unpackBody s

/-- A command runs its rule and completes. -/
theorem exec_eq (i : Instr) (s : State) : exec i s = complete s (body i s) := by
  cases i <;> rfl

/-! ## BUF reads -/

theorem bufRead_ok {s : State} {a : Nat} {v : Byte} :
    s.bufRead a = .ok v ↔ Memory.read s.buf a = some v := by
  unfold State.bufRead
  split <;> simp [*]

theorem bufRead_error {s : State} {a : Nat} {e : Stop} :
    s.bufRead a = .error e ↔ Memory.read s.buf a = none ∧ e = .fault (.unwrittenBufByte a) := by
  unfold State.bufRead
  split <;> simp [*, eq_comm]

/-- A successful read of n bytes: each of them is the byte at its offset. -/
theorem bufReadList_ok {s : State} {n a : Nat} {vs : List Byte} :
    s.bufReadList a n = .ok vs ↔
      vs.length = n ∧ ∀ i (h : i < vs.length), Memory.read s.buf (a + i) = some vs[i] := by
  induction n generalizing a vs with
  | zero =>
    unfold State.bufReadList
    constructor
    · intro h
      cases h
      simp
    · rintro ⟨h, _⟩
      rw [List.length_eq_zero_iff.1 h]
  | succ n ih =>
    unfold State.bufReadList
    constructor
    · intro h
      split at h
      · cases h
      · rename_i v hv
        split at h
        · cases h
        · rename_i ws hws
          cases h
          obtain ⟨hl, hr⟩ := ih.1 hws
          refine ⟨by simp [hl], ?_⟩
          intro i hi
          cases i with
          | zero => simpa using bufRead_ok.1 hv
          | succ i =>
            have := hr i (by simpa using hi)
            rw [show a + (i + 1) = a + 1 + i by omega]
            simpa using this
    · rintro ⟨hl, hr⟩
      cases vs with
      | nil => simp at hl
      | cons v vs =>
        have h0 := hr 0 (by simp)
        have hv : s.bufRead a = .ok v := bufRead_ok.2 (by simpa using h0)
        have hvs : s.bufReadList (a + 1) n = .ok vs := by
          refine ih.2 ⟨by simpa using hl, ?_⟩
          intro i hi
          have := hr (i + 1) (by simpa using hi)
          rw [show a + 1 + i = a + (i + 1) by omega]
          simpa using this
        rw [hv]
        simp [hvs]

/-- A read of bytes that stops reads an unwritten one. -/
theorem bufReadList_error {s : State} {n a : Nat} {e : Stop} (h : s.bufReadList a n = .error e) :
    ∃ b, e = .fault (.unwrittenBufByte b) ∧ Memory.read s.buf b = none := by
  induction n generalizing a with
  | zero =>
    unfold State.bufReadList at h
    cases h
  | succ n ih =>
    unfold State.bufReadList at h
    split at h
    · rename_i e' he
      cases h
      obtain ⟨h1, h2⟩ := bufRead_error.1 he
      exact ⟨a, h2, h1⟩
    · split at h
      · rename_i e' he
        cases h
        exact ih he
      · cases h

/-- A read of bytes faults at the first of them that is unwritten (R85). -/
theorem bufReadList_unwritten {s : State} {n a i : Nat} (h : i < n)
    (hw : ∀ j, j < i → Memory.read s.buf (a + j) ≠ none) (hn : Memory.read s.buf (a + i) = none) :
    s.bufReadList a n = .error (.fault (.unwrittenBufByte (a + i))) := by
  induction n generalizing a i with
  | zero => omega
  | succ n ih =>
    unfold State.bufReadList
    cases i with
    | zero =>
      rw [bufRead_error.2 ⟨by simpa using hn, rfl⟩]
      rfl
    | succ i =>
      obtain ⟨v, hv⟩ := Option.ne_none_iff_exists'.1 (hw 0 (by omega))
      rw [bufRead_ok.2 (by simpa using hv)]
      have h1 : ∀ j, a + 1 + j = a + (j + 1) := by omega
      have := ih (a := a + 1) (i := i) (by omega)
        (fun j hj => by rw [h1]; exact hw (j + 1) (by omega)) (by rw [h1]; exact hn)
      rw [this, h1]

/-! ## Steps -/

/-- Whose turn it is: the first input's, or the engine's when none is left. -/
theorem step_eq (s : State) :
    step s = match s.inputs with
      | [] => engineStep s
      | .complete :: rest => engineStep { s with inputs := rest }
      | .access t :: rest => serve t { s with inputs := rest }
      | .hardReset :: rest => .next (State.hardReset { s with inputs := rest }) := rfl

/-- The engine's turn: nothing with no command, the command's execution with a legal word, IllegalCommand
with an illegal one. -/
theorem engineStep_cases (s : State) :
    (s.engine = none ∧ engineStep s = .next s) ∨
    (∃ e i, s.engine = some e ∧ decode e.cmd = .ok i ∧ engineStep s = exec i s) ∨
    (∃ e r, s.engine = some e ∧ decode e.cmd = .error r ∧
      engineStep s = .next (s.raise .illegalCommand e.cmd)) := by
  unfold engineStep
  cases he : s.engine with
  | none => exact .inl ⟨rfl, rfl⟩
  | some e =>
    cases hd : decode e.cmd with
    | ok i => exact .inr (.inl ⟨e, i, rfl, hd, by simp [hd]⟩)
    | error r => exact .inr (.inr ⟨e, r, rfl, hd, by simp [hd, execIllegal]⟩)

end Sys2Proof.Machine
end

