-- ==== Sys2Proof/Laws/Payload.lean ====
section
/-! SUPPORT. Everything PACK's scan and UNPACK's loop can do, said once. -/

namespace Sys2Proof.Machine

/-- PACK's scan succeeds exactly on written symbols that all have an entry (R170). -/
theorem packSymbols_ok {s : State} {n a i : Nat} {xs : List Byte} :
    packSymbols s n a i = .ok xs ↔
      xs.length = n ∧ ∀ j (h : j < xs.length),
        Memory.read s.buf (a + j) = some xs[j] ∧ s.hasEntry xs[j] = true := by
  induction n generalizing a i xs with
  | zero =>
    unfold packSymbols
    constructor
    · intro h
      cases h
      simp
    · rintro ⟨h, _⟩
      rw [List.length_eq_zero_iff.1 h]
  | succ n ih =>
    unfold packSymbols
    constructor
    · intro h
      split at h
      · cases h
      · rename_i x hx
        split at h
        · rename_i he
          split at h
          · cases h
          · rename_i ys hys
            cases h
            obtain ⟨hl, hr⟩ := ih.1 hys
            refine ⟨by simp [hl], ?_⟩
            intro j hj
            cases j with
            | zero => simpa using ⟨bufRead_ok.1 hx, he⟩
            | succ j =>
              have := hr j (by simpa using hj)
              rw [show a + (j + 1) = a + 1 + j by omega]
              simpa using this
        · cases h
    · rintro ⟨hl, hr⟩
      cases xs with
      | nil => simp at hl
      | cons x xs =>
        have h0 := hr 0 (by simp)
        simp only [Nat.add_zero, List.getElem_cons_zero] at h0
        have hx : s.bufRead a = .ok x := bufRead_ok.2 h0.1
        have hxs : packSymbols s n (a + 1) (i + 1) = .ok xs := by
          refine ih.2 ⟨by simpa using hl, ?_⟩
          intro j hj
          have := hr (j + 1) (by simpa using hj)
          rw [show a + 1 + j = a + (j + 1) by omega]
          simpa using this
        rw [hx]
        simp [h0.2, hxs]

/-- PACK's scan stops at the first offset that is unwritten or holds a symbol with no entry (R85,
R170, R205). -/
theorem packSymbols_error {s : State} {n a i : Nat} {e : Stop} (h : packSymbols s n a i = .error e) :
    ∃ j < n, (∀ k < j, ∃ x, Memory.read s.buf (a + k) = some x ∧ s.hasEntry x = true) ∧
      ((Memory.read s.buf (a + j) = none ∧ e = .fault (.unwrittenBufByte (a + j))) ∨
        ∃ x, Memory.read s.buf (a + j) = some x ∧ s.hasEntry x = false ∧
          e = .raise .unknownSymbol (infoUnknownSymbol x (i + j))) := by
  induction n generalizing a i with
  | zero =>
    unfold packSymbols at h
    cases h
  | succ n ih =>
    unfold packSymbols at h
    split at h
    · rename_i e' he
      cases h
      obtain ⟨h1, h2⟩ := bufRead_error.1 he
      exact ⟨0, by omega, by simp, .inl ⟨h1, h2⟩⟩
    · rename_i x hx
      have hx := bufRead_ok.1 hx
      split at h
      · rename_i hen
        split at h
        · rename_i e' he
          cases h
          obtain ⟨j, hj, hbefore, hat⟩ := ih he
          refine ⟨j + 1, by omega, ?_, ?_⟩
          · intro k hk
            cases k with
            | zero => exact ⟨x, hx, hen⟩
            | succ k =>
              rw [show a + (k + 1) = a + 1 + k by omega]
              exact hbefore k (by omega)
          · rw [show a + (j + 1) = a + 1 + j by omega, show i + (j + 1) = i + 1 + j by omega]
            exact hat
        · cases h
      · rename_i hen
        cases h
        exact ⟨0, by omega, by simp, .inr ⟨x, hx, by simpa using hen, rfl⟩⟩

/-- A match is a symbol with an entry whose code stands at the front (R188). -/
theorem matchCode_some {s : State} {rest : Bits} {x : Byte} (h : matchCode s rest = some x) :
    s.hasEntry x = true ∧ s.code x <+: rest := by
  have := List.find?_some h
  simpa [entryMatches] using this

/-- No match: no entry's code stands at the front (R188). -/
theorem matchCode_none {s : State} {rest : Bits} :
    matchCode s rest = none ↔ ∀ x, s.hasEntry x = true → ¬ s.code x <+: rest := by
  simp only [matchCode, List.find?_eq_none, entryMatches, Bool.and_eq_true, not_and]
  constructor
  · intro h x he hp
    exact h x (mem_symbols x) he (by simpa using hp)
  · intro h x _ he hp
    exact h x he (by simpa using hp)

/-- UNPACK's loop succeeds only with symbols that have entries and whose codes make up the bits. -/
theorem decodeBits_ok {s : State} {fuel p : Nat} {rest : Bits} {xs : List Byte}
    (h : decodeBits s fuel rest p = .ok xs) :
    xs.flatMap s.code = rest ∧ ∀ x ∈ xs, s.hasEntry x = true := by
  induction fuel generalizing rest p xs with
  | zero =>
    cases rest with
    | nil =>
      unfold decodeBits at h
      cases h
      simp
    | cons b bs =>
      unfold decodeBits at h
      cases h
  | succ fuel ih =>
    cases rest with
    | nil =>
      unfold decodeBits at h
      cases h
      simp
    | cons b bs =>
      unfold decodeBits at h
      split at h
      · cases h
      · rename_i x hx
        obtain ⟨he, hp⟩ := matchCode_some hx
        split at h
        · cases h
        · rename_i ys hys
          cases h
          obtain ⟨h1, h2⟩ := ih hys
          refine ⟨?_, ?_⟩
          · obtain ⟨r, hr⟩ := hp
            rw [List.flatMap_cons, h1, ← hr]
            simp
          · intro y hy
            rcases List.mem_cons.1 hy with rfl | hy
            · exact he
            · exact h2 y hy

/-- PACK's scan faults at the first unwritten source byte with no unknown symbol before it (R85, R170). -/
theorem packSymbols_unwritten {s : State} {n a i k : Nat} (h : i < n)
    (hw : ∀ j, j < i → ∃ x, Memory.read s.buf (a + j) = some x ∧ s.hasEntry x = true)
    (hn : Memory.read s.buf (a + i) = none) :
    packSymbols s n a k = .error (.fault (.unwrittenBufByte (a + i))) := by
  induction n generalizing a i k with
  | zero => omega
  | succ n ih =>
    unfold packSymbols
    cases i with
    | zero =>
      rw [bufRead_error.2 ⟨by simpa using hn, rfl⟩]
      rfl
    | succ i =>
      obtain ⟨x, hx, he⟩ := hw 0 (by omega)
      rw [bufRead_ok.2 (by simpa using hx)]
      have h1 : ∀ j, a + 1 + j = a + (j + 1) := by omega
      have := ih (a := a + 1) (i := i) (k := k + 1) (by omega)
        (fun j hj => by rw [h1]; exact hw (j + 1) (by omega)) (by rw [h1]; exact hn)
      simp only [he, if_true, this, h1]

end Sys2Proof.Machine
end

