-- ==== Sys2Proof/Laws/PerInstr.lean ====
section
/-! SUPPORT. Facts about every command as syntax, one lemma a constructor. -/

namespace Sys2Proof.Laws.FormatFields

/-- The word of a command carries its opcode, its SYM and LEN, and 0 in RSV (R90, R91). -/
def Statement (i : Instr) : Prop :=
  opcField (encode i) = opcodeOf i ∧ symField (encode i) = symOf i ∧ lenField (encode i) = lenOf i ∧
    rsvField (encode i) = 0#8

/-- The fields of an encoded command are those of format F0. -/
theorem of_encode (i : Instr) : Statement i := by simp [Statement, encode]

theorem nop : Statement .nop := of_encode _
theorem sreset : Statement .sreset := of_encode _
theorem wclear : Statement .wclear := of_encode _
theorem build : Statement .build := of_encode _
theorem gen : Statement .gen := of_encode _
theorem dclear : Statement .dclear := of_encode _
theorem dadd (sym len : Byte) : Statement (.dadd sym len) := of_encode _
theorem pack : Statement .pack := of_encode _
theorem unpack : Statement .unpack := of_encode _

end Sys2Proof.Laws.FormatFields
end

