-- ==== Sys2Proof/Laws/Step.lean ====
section
/-! SUPPORT. Everything a step can do, said once. -/

namespace Sys2Proof.Machine

/-- The turn of the engine answers a next state: nothing ran, a command completed, or IllegalCommand was
raised. -/
theorem engineStep_next {s t : State} (h : engineStep s = .next t) :
    (s.engine = none ∧ t = s) ∨
    (∃ e i, s.engine = some e ∧ decode e.cmd = .ok i ∧ exec i s = .next t) ∨
    (∃ e r, s.engine = some e ∧ decode e.cmd = .error r ∧ t = s.raise .illegalCommand e.cmd) := by
  rcases engineStep_cases s with ⟨he, hs⟩ | ⟨e, i, he, hd, hs⟩ | ⟨e, r, he, hd, hs⟩
  · exact .inl ⟨he, by simpa [hs] using h.symm⟩
  · exact .inr (.inl ⟨e, i, he, hd, hs ▸ h⟩)
  · exact .inr (.inr ⟨e, r, he, hd, by simpa [hs] using h.symm⟩)

/-- A step that answers a next state took one turn from the state with its first input gone: the engine's,
a host read, a host write, or hardware reset. -/
theorem step_next {s t : State} (h : step s = .next t) :
    (∃ rest, engineStep { s with inputs := rest } = .next t) ∨
    (∃ rest off size, hostRead off size { s with inputs := rest } = .next t) ∨
    (∃ rest off size v, hostWrite off size v { s with inputs := rest } = .next t) ∨
    (∃ rest, t = State.hardReset { s with inputs := rest }) := by
  rw [step_eq] at h
  cases hi : s.inputs with
  | nil =>
    rw [hi] at h
    refine .inl ⟨[], ?_⟩
    have : ({ s with inputs := [] } : State) = s := by
      cases s
      simp_all
    rw [this]
    exact h
  | cons x rest =>
    rw [hi] at h
    cases x with
    | complete => exact .inl ⟨rest, h⟩
    | access tr =>
      cases tr with
      | read off size => exact .inr (.inl ⟨rest, off, size, h⟩)
      | write off size v => exact .inr (.inr (.inl ⟨rest, off, size, v, h⟩))
    | hardReset => exact .inr (.inr (.inr ⟨rest, by simpa using h.symm⟩))

end Sys2Proof.Machine
end

