-- ==== Sys2Proof/Laws/Tree.lean ====
section
/-! SUPPORT. The node table BUILD stores, read back entry by entry. -/

namespace Sys2Proof.Machine

/-- Every entry of a state's node table, wherever it is, is the arena's, for an arena that fits. -/
theorem nodeAt_nodeTable {s : State} {arena : List Node} (h : arena.length ≤ 511)
    (hs : s.node = nodeTable arena) (i : Nat) : s.nodeAt i = arenaAt arena i := by
  unfold State.nodeAt arenaAt
  rw [hs, nodeTable]
  by_cases hi : i < 511
  · simp [hi, arenaAt]
  · simp [hi, List.getElem?_eq_none (by omega : arena.length ≤ i)]

end Sys2Proof.Machine
end

