-- ==== Sys2Proof/Tests/Slice0.lean ====
section
/-! SUPPORT. Tests of the model on the spec's own vectors (spec/95_test_vectors.md) and words written out
from its encodings, the WellFormed smoke test, and a witness for the hypotheses of every statement of
Obligations.lean that has some. -/

open Sys2Proof
open Sys2Proof.Machine

namespace Sys2Proof.Tests

-- One theorem at a time: each `decide +kernel` waits for the ones before it, and would hold a thread.
set_option Elab.async false

/-! ## WellFormed: a word that each check refuses (R93, vectors CT-3 to CT-6, PR-1) -/

theorem test_refuses_reserved_opcode : opcodeListed 0x00000012#32 = false := by decide
theorem test_refuses_reserved_opcode_word : legalWord 0x00000012#32 = false := by decide
theorem test_refuses_sym_of_build : unusedFieldsZero 0x00000110#32 = false := by decide
theorem test_refuses_len_of_build : unusedFieldsZero 0x00010010#32 = false := by decide
theorem test_refuses_rsv_of_nop : unusedFieldsZero 0x01000000#32 = false := by decide
theorem test_refuses_rsv_of_dadd : unusedFieldsZero 0x01014121#32 = false := by decide
theorem test_accepts_dadd_len_0 : legalWord 0x00004121#32 = true := by decide
theorem test_every_command_well_formed : (Instr.dadd 0xFF#8 0xFF#8).wellFormed = true := by decide

/-! ## Words written out from R90 and R91 -/

theorem test_decode_nop : decodeTableWord 32 0x00000000 = some .nop := by decide
theorem test_decode_sreset : decodeTableWord 32 0x00000001 = some .sreset := by decide
theorem test_decode_wclear : decodeTableWord 32 0x00000002 = some .wclear := by decide
theorem test_decode_build : decodeTableWord 32 0x00000010 = some .build := by decide
theorem test_decode_gen : decodeTableWord 32 0x00000011 = some .gen := by decide
theorem test_decode_dclear : decodeTableWord 32 0x00000020 = some .dclear := by decide
/-- RSV 00000000, LEN 00000011, SYM 01000011, OPC 00100001 (program P2, step 6). -/
theorem test_decode_dadd : decodeTableWord 32 0b00000000000000110100001100100001 =
    some (.dadd 0x43#8 3#8) := by decide
theorem test_decode_pack : decodeTableWord 32 0x00000030 = some .pack := by decide
theorem test_decode_unpack : decodeTableWord 32 0x00000031 = some .unpack := by decide
theorem test_decode_reserved : decodeTableWord 32 0x000000FF = none := by decide
/-- `DADD 0x00, 255` is the word 0x00FF0021 (vector CG-11). -/
theorem test_encode_dadd : encode (.dadd 0x00#8 255#8) = 0x00FF0021#32 := by decide

/-- The outcome is a next state of which p holds. -/
def nextAnd (o : Host.Outcome State Fault Refusal) (p : State → Bool) : Bool :=
  match o with
  | .next t => p t
  | .fault _ => false
  | .refused _ => false

theorem next_of_nextAnd {o : Host.Outcome State Fault Refusal} {p : State → Bool} (h : nextAnd o p = true) :
    ∃ t, o = .next t ∧ p t = true := by
  match o with
  | .next t => exact ⟨t, rfl, h⟩
  | .fault _ => exact absurd h Bool.false_ne_true
  | .refused _ => exact absurd h Bool.false_ne_true

/-- A word of every row but BUILD's (`test_build_empty`) runs as the first command after reset. -/
theorem test_every_row_runs : ((opcodeTable.filter fun r => r.fixed != 0x10#32).all fun r =>
    nextAnd (step (State.reset.withFetchWord 32 r.fixed.toNat)) fun t => t.done && !t.busy) = true := by
  decide +kernel

/-! ## Helpers: small states, and what a state shows -/

/-- What a state shows of STATUS, ERR_CODE and ERR_INFO. -/
def shows (s : State) (status code info : Word) : Bool :=
  s.statusWord == status && (s.errCodeWord == code && s.errInfo == info)

/-- The dictionary of vector CG-6: 'A' = "0", 'B' = "10". -/
def dictAB : State := (State.reset.addEntry 0x41#8 [false]).addEntry 0x42#8 [true, false]

/-- dictAB with the bytes vs at offset 0 and the registers src, n, dst. -/
def loaded (vs : List Byte) (src n dst : Word) : State :=
  { dictAB with buf := Memory.writeList [] 0 vs, arg0 := src, arg1 := n, arg2 := dst }

/-- dictAB with one word staged for DADD. -/
def staged (w : Word) : State := { dictAB with codeStage := dictAB.codeStage.set 0 w }

/-- The weights of vector TB-2: 'a' 8 times, 'b' once. -/
def weightsAB : State :=
  { State.reset with
    weight := tableSet (tableSet (Vector.replicate 256 0#32) 0x61#8 8#32) 0x62#8 1#32 }

/-- The arena of vector TB-2: NODE[2] = (9; 1, 0). -/
def arenaAB : List Node :=
  [⟨8#40, true, 0x61#8, 0#9, 0#9⟩, ⟨1#40, true, 0x62#8, 0#9, 0#9⟩, ⟨9#40, false, 0#8, 1#9, 0#9⟩]

/-- The tree of vector TB-2. -/
def treeAB : State :=
  { weightsAB with
    node := nodeTable arenaAB, leafCount := 2#32, nodeCount := 3#32, root := 2#32, treeValid := true }

theorem weight_AB (x : Byte) : tableGet weightsAB.weight x =
    if x = 0x62#8 then 1#32 else if x = 0x61#8 then 8#32 else 0#32 := by
  simp only [weightsAB, tableGet_tableSet, tableGet_replicate]

theorem leafSet_AB : leafSet weightsAB.weight = [0x61#8, 0x62#8] := by
  unfold leafSet
  simp only [weight_AB]
  decide +kernel

theorem nodeAt_AB (i : Nat) : treeAB.nodeAt i = arenaAt arenaAB i :=
  nodeAt_nodeTable (s := treeAB) (arena := arenaAB) (by decide) rfl i

theorem hasEntry_AB (x : Byte) : dictAB.hasEntry x = decide (x = 0x41#8 ∨ x = 0x42#8) := by
  unfold dictAB
  rw [hasEntry_addEntry _ _ _ _ (by decide) (by decide), hasEntry_addEntry _ _ _ _ (by decide) (by decide)]
  have h0 : State.reset.hasEntry x = false := by simp [State.hasEntry, State.reset]
  rw [h0]
  by_cases hb : x = 0x42#8 <;> by_cases ha : x = 0x41#8 <;> simp [ha, hb]

theorem code_AB (x : Byte) : dictAB.code x =
    if x = 0x42#8 then [true, false] else if x = 0x41#8 then [false] else [] := by
  unfold dictAB
  rw [code_addEntry _ _ _ _ (by decide), code_addEntry _ _ _ _ (by decide)]
  have h0 : State.reset.code x = [] := by simp [State.code, State.reset]
  rw [h0]

theorem symbols_AB : dictAB.dictSymbols = [0x41#8, 0x42#8] := by decide +kernel

theorem leafSet_reset : leafSet State.reset.weight = [] := by simp [leafSet, State.reset]

/-! ## One step of each command -/

/-- CT-1. -/
theorem test_nop : nextAnd (exec .nop State.reset) (shows · 0x02#32 0#32 0#32) = true := by decide +kernel

/-- CT-9 and CT-10: SRESET clears an error and the tables, and keeps BUF. -/
theorem test_sreset : nextAnd (exec .sreset ((loaded [0x5A#8] 0 0 0).raise .illegalCommand 0xFF#32))
    (shows · 0x02#32 0#32 0#32) = true := by decide +kernel
theorem test_sreset_keeps_buf : nextAnd (exec .sreset (loaded [0x5A#8] 0 0 0))
    (fun t => t.buf == [(0, 0x5A#8)]) = true := by decide +kernel

/-- CT-13: WCLEAR leaves TREE_VALID. -/
theorem test_wclear : nextAnd (exec .wclear treeAB)
    (fun t => tableGet t.weight 0x61#8 == 0#32 && t.statusWord == 0x12#32) = true := by decide +kernel

/-- TB-2. -/
theorem test_build : buildArena weightsAB.weight = arenaAB := by
  simp only [buildArena, leafSet_AB, List.map_cons, List.map_nil, leafNode, weight_AB]
  decide +kernel
/-- TB-4. -/
theorem test_build_empty : nextAnd (exec .build State.reset) (shows · 0x06#32 1#32 0x01000000#32) = true := by
  rw [exec_eq, body, buildBody, leafSet_reset]
  decide +kernel
theorem test_build_root : [NodePart.wlo, .whi, .info, .link].map (nodeWord (arenaAt arenaAB 2)) =
    [9#32, 0#32, 0#32, 0x00000001#32] := by decide +kernel

/-- CG-3: 'b' = "0", 'a' = "1", in this order. -/
theorem test_gen : nextAnd (exec .gen treeAB) (fun t =>
    t.dictSymbols == [0x62#8, 0x61#8] && (t.code 0x62#8 == [false] && t.code 0x61#8 == [true])) = true := by
  decide +kernel
/-- CG-2. -/
theorem test_gen_no_tree : nextAnd (exec .gen State.reset) (shows · 0x06#32 1#32 0x02000000#32) = true := by
  decide +kernel

/-- CG-13. -/
theorem test_dclear : nextAnd (exec .dclear dictAB) (fun t => !t.hasEntry 0x41#8) = true := by decide +kernel

/-- CG-6: "1" conflicts with 'B' = "10", not with 'A' = "0". -/
theorem test_dadd_conflict : nextAnd (exec (.dadd 0x43#8 1#8) (staged 0x80000000#32))
    (shows · 0x06#32 1#32 0x06004342#32) = true := by decide +kernel
/-- CG-11: 255 ones; the staged bit 255 is stored as 0. -/
theorem test_dadd_longest : nextAnd (exec (.dadd 0x00#8 255#8)
    { State.reset with codeStage := Vector.replicate 8 0xFFFFFFFF#32 })
    (fun t => codeRowWord (tableGet t.codeBits 0x00#8) 7 == 0xFFFFFFFE#32) = true := by decide +kernel

/-- "AB" packs to 010 = 40 03 (the payload of vector BU-8). -/
theorem test_pack : nextAnd (exec .pack (loaded [0x41#8, 0x42#8] 0#32 2#32 0x40#32))
    (fun t => t.buf.drop 2 == [(0x40, 0x40#8), (0x41, 0x03#8)]) = true := by decide +kernel
/-- As BP-15: the unknown symbol 'X' at index 0. -/
theorem test_pack_unknown : nextAnd (exec .pack (loaded [0x58#8, 0x41#8, 0x5A#8] 0#32 3#32 0x100#32))
    (shows · 0x06#32 2#32 0x58000000#32) = true := by decide +kernel

/-- BU-8: 40 03 gives "AB", 60 03 fails at bit 1. -/
theorem test_unpack : nextAnd (exec .unpack (loaded [0x40#8, 0x03#8] 0#32 2#32 0x40#32))
    (fun t => t.buf.drop 2 == [(0x40, 0x41#8), (0x41, 0x42#8)]) = true := by decide +kernel
theorem test_unpack_no_match : nextAnd (exec .unpack (loaded [0x60#8, 0x03#8] 0#32 2#32 0x40#32))
    (shows · 0x06#32 3#32 0x00000001#32) = true := by decide +kernel

/-! ## The host's side -/

/-- IF-1: PARAMS with BUF_BYTES = 65536 and 1024. -/
theorem test_params : State.reset.paramsWord = 0x000010FF#32 ∧
    { State.reset with bufLog := 0 }.paramsWord = 0x00000AFF#32 := by decide +kernel
/-- IF-2. -/
theorem test_byte_read_of_status :
    nextAnd (hostRead 0x00008#17 .byte treeAB) (fun t => t.readData == 0#32) = true := by decide +kernel
/-- IF-4: little-endian. -/
theorem test_little_endian : nextAnd (hostWrite 0x10000#17 .word 0x11223344#32 State.reset)
    (fun t => t.buf == [(0, 0x44#8), (1, 0x33#8), (2, 0x22#8), (3, 0x11#8)]) = true := by decide +kernel
/-- IF-8. -/
theorem test_irq_en_keeps_two_bits : nextAnd (hostWrite 0x0000C#17 .word 0xFFFFFFFF#32 State.reset)
    (fun t => t.irqEnWord == 3#32) = true := by decide +kernel
/-- IF-9: STATUS = 0x1E becomes 0x10. -/
theorem test_clear_status :
    shows (State.clearStatus { treeAB.raise .invalidInput 0x01000001#32 with rej := true } 0xFFFFFFFF#32)
      0x10#32 0#32 0#32 = true := by decide +kernel
/-- CT-7 and CT-11: rejected while ERR = 1, and while BUSY = 1. -/
theorem test_reject : ((State.reset.raise .illegalCommand 0xFF#32).issue 0#32).statusWord = 0x0E#32 ∧
    ((State.reset.accept 2#32).issue 0#32).statusWord = 0x09#32 := by decide +kernel
/-- IRQ-1. -/
theorem test_irq : nextAnd (exec .nop { State.reset with irqEn := 1#2 }) (·.irq) = true := by decide +kernel
/-- P4, step 9: BUF[0x40] is unwritten after the failed UNPACK. -/
theorem test_unwritten_read_faults :
    hostRead 0x10040#17 .byte State.reset = .fault (.unwrittenBufByte 0x40) := rfl
/-- Program P2, step 5: `wr32 CODE_STAGE[0]` is a write to 0x00060. -/
theorem test_asm_stage : (asmStage [true, false, false]).take 1 =
    [.access (.write 0x00060#17 .word 0x80000000#32)] := by decide +kernel

/-- A `dadd` of 257 bits is R96's word 0x01014121, which sets RSV (R93, D7). -/
theorem test_asm_dadd_long : daddWord 0x41#8 257 = 0x01014121#32 := by decide

/-! ## Witnesses: the hypotheses of the statements can be met -/

/-- The dictionary of CG-6 meets DictInv. -/
theorem witness_dictInv : DictInv dictAB := by
  refine ⟨?_, ?_, ?_, by decide +kernel, ?_, ?_⟩
  · simp only [funext hasEntry_AB]
    decide +kernel
  · rw [symbols_AB]
    decide
  · intro x _
    rw [hasEntry_AB, symbols_AB]
    simp
  · rw [State.prefixFree, symbols_AB]
    simp only [code_AB]
    decide
  · intro x _
    rw [code_AB]
    simp only [dictAB, State.addEntry_codeBits, tableGet_tableSet]
    have h0 : tableGet State.reset.codeBits x = 0#256 := by simp [State.reset]
    rw [h0]
    split
    · rfl
    · split
      · rfl
      · decide +kernel

theorem witness_dictInv_loaded (vs : List Byte) (src n dst : Word) : DictInv (loaded vs src n dst) :=
  witness_dictInv

theorem witness_dictInv_reset : DictInv State.reset := by
  refine ⟨?_, ?_, ?_, by decide +kernel, ?_, ?_⟩
  · have h0 : ∀ x, State.reset.hasEntry x = false := fun x => by simp [State.hasEntry, State.reset]
    simp only [funext h0]
    decide +kernel
  · decide +kernel
  · intro x _
    simp [State.hasEntry, State.dictSymbols, State.reset]
  · simp [State.prefixFree, State.dictSymbols, State.reset]
  · intro x _
    simp [State.code, State.reset]
    decide +kernel

theorem witness_hasTree : HasTree treeAB := by
  refine ⟨rfl, by decide, by decide, rfl, rfl, ?_, ?_, ?_, ?_, ?_⟩
  all_goals simp only [State.leafAt, State.internalAt, State.childList, nodeAt_AB]
  · decide +kernel
  · decide +kernel
  · decide +kernel
  · decide +kernel
  · intro i _ h
    simp [arenaAt, List.getElem?_eq_none (show arenaAB.length ≤ i from h)]

theorem witness_treeInv : TreeInv treeAB := .inr witness_hasTree

/-- StepRunsDecodedCommand, the clauses on commands; `witness_faults` has a state for each kind of access. -/
theorem witness_step_runs :
    (State.reset.accept 0x10#32).engine = some (State.reset.privateCopies 0x10#32) ∧
    decode 0x10#32 = .ok .build ∧ (State.reset.accept 0x10#32).inputs = [] ∧
    (State.reset.placeCommand 0x10#32).inputs = .complete :: [] := ⟨rfl, rfl, rfl, rfl⟩

/-- IllegalCommandRaises and EngineTurnEndsCommand. -/
theorem witness_illegal : legalWord (State.reset.privateCopies 0xFF#32).cmd = false ∧
    (State.reset.accept 0xFF#32).engine = some (State.reset.privateCopies 0xFF#32) ∧
    (State.reset.accept 0xFF#32).inputs = [] ∧ (State.reset.accept 0xFF#32).busy = true ∧
    (State.reset.placeCommand 0xFF#32).inputs = .complete :: [] :=
  ⟨by decide, rfl, rfl, rfl, rfl⟩

/-- FailedCommandChangesNothingElse and CommandsRaiseOnlyTheirErrors: GEN with no tree. -/
theorem witness_failed : State.reset.errCode = none ∧
    ∃ t, exec .gen State.reset = .next t ∧ t.errCode = some .invalidInput := ⟨rfl, _, rfl, rfl⟩

/-- LeastPrecedesAllOthers. -/
theorem witness_least : [0, 1].Nodup := by decide

/-- BuildRefusesFewerThanTwoLeaves at n = 0 and n = 1. -/
theorem witness_few_leaves : (leafSet State.reset.weight).length = 0 ∧
    (leafSet (tableSet (Vector.replicate 256 0#32) 0x61#8 4#32)).length = 1 := by
  unfold leafSet
  simp only [State.reset, tableGet_tableSet, tableGet_replicate]
  decide +kernel

/-- BuildCompletes at n = 2. -/
theorem witness_two_leaves : 2 ≤ (leafSet weightsAB.weight).length := by
  rw [leafSet_AB]
  decide

/-- BuildTreeProperties and BuildIsStableSortLoop at n = 2. -/
theorem witness_build_next : ∃ t, exec .build weightsAB = .next t := by
  refine ⟨(buildStaged weightsAB).commit, ?_⟩
  simp [exec_eq, body, buildBody, leafSet_AB]

/-- GenRefusesMissingTree and GenCompletes. -/
theorem witness_gen : State.reset.treeValid = false ∧ treeAB.treeValid = true := ⟨rfl, rfl⟩

/-- GenCodesAreRootPaths, GenOrderIsLeftToRight, GenDictionaryIsComplete, CommandsKeepShell,
OnlyPackUnpackWriteBuf and CommandsKeepOtherTables. -/
theorem witness_gen_next : HasTree treeAB ∧ ∃ t, exec .gen treeAB = .next t :=
  ⟨witness_hasTree, (genStaged treeAB).commit, by simp [exec_eq, body, genBody, treeAB]⟩

/-- DaddRefusesBadEntries: a duplicate, and the conflict of CG-6 at k = 1. -/
theorem witness_dadd_refused :
    tableGet dictAB.codeLen 0x41#8 ≠ 0#8 ∧ tableGet dictAB.codeLen 0x43#8 = 0#8 ∧
    1 < dictAB.dictSymbols.length ∧ dictAB.dictSymbols[1]! = 0x42#8 ∧
    (staged 0x80000000#32).stagedCode 1#8 <+: dictAB.code 0x42#8 ∧
    (∀ x ∈ dictAB.dictSymbols.take 1,
      ¬ dictAB.code x <+: (staged 0x80000000#32).stagedCode 1#8 ∧
      ¬ (staged 0x80000000#32).stagedCode 1#8 <+: dictAB.code x) := by
  decide +kernel

/-- DaddAddsEntry: "11" for 'C' beside CG-6's codes. -/
theorem witness_dadd_added :
    tableGet dictAB.codeLen 0x43#8 = 0#8 ∧ dictAB.dictCount.toNat < 256 ∧
    (∀ x ∈ dictAB.dictSymbols,
      ¬ dictAB.code x <+: (staged 0xC0000000#32).stagedCode 2#8 ∧
      ¬ (staged 0xC0000000#32).stagedCode 2#8 <+: dictAB.code x) := by
  decide +kernel

/-- PackRefusesBadOperands, clauses 1 and 2: the first offset out of range, and the last one in it with an
empty dictionary. -/
theorem witness_pack_range : dictAB.bufBytes < (loaded [] 65536#32 1#32 0#32).argSrc + (loaded [] 65536#32 1#32 0#32).argLen ∧
    (loaded [] 65535#32 1#32 0#32).argSrc + (loaded [] 65535#32 1#32 0#32).argLen ≤ dictAB.bufBytes ∧
    State.reset.dictCount = 0#32 := by decide +kernel

/-- The source of the witnesses of PACK: "AB" at 0, the destination at 0x40. -/
def packAB : State := loaded [0x41#8, 0x42#8] 0#32 2#32 0x40#32

/-- PackRefusesBadOperands, clause 3: 'X' after 'A'. -/
theorem witness_pack_unknown :
    packAB.argSrc + packAB.argLen ≤ packAB.bufBytes ∧ packAB.dictCount ≠ 0#32 ∧ 1 < packAB.argLen ∧
    Memory.read (loaded [0x41#8, 0x58#8] 0#32 2#32 0x40#32).buf 0 = some 0x41#8 ∧
    tableGet dictAB.codeLen 0x41#8 ≠ 0#8 ∧
    Memory.read (loaded [0x41#8, 0x58#8] 0#32 2#32 0x40#32).buf 1 = some 0x58#8 ∧
    tableGet dictAB.codeLen 0x58#8 = 0#8 := by decide +kernel

/-- PackRefusesBadOperands, clauses 4 and 5: "A" is written and has an entry; its payload of two bytes does
not fit at 65535, and overlaps at 0. -/
theorem witness_pack_store :
    (loaded [0x41#8] 0#32 1#32 65535#32).argLen = 1 ∧
    Memory.read (loaded [0x41#8] 0#32 1#32 65535#32).buf 0 = some 0x41#8 ∧
    (([0x41#8] : List Byte).flatMap dictAB.code).length = 1 ∧
    dictAB.bufBytes < (loaded [0x41#8] 0#32 1#32 65535#32).argDst + ((1 + 7) / 8 + 1) ∧
    (loaded [0x41#8] 0#32 1#32 0#32).argSrc < (loaded [0x41#8] 0#32 1#32 0#32).argDst + ((1 + 7) / 8 + 1) ∧
    (loaded [0x41#8] 0#32 1#32 0#32).argDst < (loaded [0x41#8] 0#32 1#32 0#32).argSrc + 1 ∧
    (loaded [0x41#8] 0#32 1#32 0#32).argDst + ((1 + 7) / 8 + 1) ≤ dictAB.bufBytes := by
  decide +kernel

/-- PackStoresPayload: "AB", T = 3, k = 1, M = 3. -/
theorem witness_pack_stores :
    packAB.argLen = 2 ∧ packAB.argSrc + packAB.argLen ≤ packAB.bufBytes ∧ packAB.dictCount ≠ 0#32 ∧
    (∀ i (h : i < ([0x41#8, 0x42#8] : List Byte).length),
      Memory.read packAB.buf (packAB.argSrc + i) = some ([0x41#8, 0x42#8] : List Byte)[i] ∧
      packAB.hasEntry ([0x41#8, 0x42#8] : List Byte)[i] = true) ∧
    (([0x41#8, 0x42#8] : List Byte).flatMap packAB.code).length = 3 ∧ packAB.argDst + (1 + 1) ≤ packAB.bufBytes ∧
    ¬ (0 < packAB.argLen ∧ packAB.argSrc < packAB.argDst + (1 + 1) ∧
      packAB.argDst < packAB.argSrc + packAB.argLen) := by decide +kernel

/-- PackFrame and UnpackInvertsPack: PACK answers with no error, and a state has its payload as UNPACK's
source. -/
theorem witness_pack_unpack : DictInv packAB ∧ packAB.errCode = none ∧
    ∃ t u, exec .pack packAB = .next t ∧ t.errCode = none ∧ u.buf = t.buf ∧ u.bufLog = packAB.bufLog ∧
      SameDictionary packAB u ∧ u.argSrc = packAB.argDst ∧ u.argLen = t.res0.toNat := by
  obtain ⟨t, ht, hp⟩ := next_of_nextAnd (o := exec .pack packAB)
    (p := fun t => t.errCode == none && t.res0 == 2#32) (by decide +kernel)
  simp only [Bool.and_eq_true, beq_iff_eq] at hp
  refine ⟨witness_dictInv, rfl, t, { loaded [] 0x40#32 2#32 0x80#32 with buf := t.buf }, ht, hp.1, rfl, rfl,
    ⟨rfl, rfl, rfl, rfl⟩, rfl, ?_⟩
  rw [hp.2]
  rfl

/-- The payload 40 03 at 0 as UNPACK's source, with the destination dst. -/
def payloadAB (dst : Word) : State := loaded [0x40#8, 0x03#8] 0#32 2#32 dst

/-- UnpackRefusesBadOperands, clauses 1 to 3. -/
theorem witness_unpack_range :
    dictAB.bufBytes < (loaded [] 65535#32 2#32 0#32).argSrc + (loaded [] 65535#32 2#32 0#32).argLen ∧
    State.reset.argSrc + State.reset.argLen ≤ State.reset.bufBytes ∧ State.reset.dictCount = 0#32 ∧
    (loaded [] 65536#32 0#32 0#32).argSrc + (loaded [] 65536#32 0#32 0#32).argLen ≤ dictAB.bufBytes ∧
    dictAB.dictCount ≠ 0#32 ∧ (loaded [] 65536#32 0#32 0#32).argLen = 0 := by decide +kernel

/-- UnpackRefusesBadOperands, clause 4: the illegal metadata bytes of vector BU-5, 0 and 9 after a data
byte and 5 after none. -/
theorem witness_unpack_meta :
    Memory.read (loaded [0xFF#8, 0x00#8] 0#32 2#32 0x40#32).buf 1 = some 0x00#8 ∧
    ¬ ((2 = 1 ∧ 0x00#8 = 0#8) ∨ (2 ≤ 2 ∧ 1 ≤ (0x00#8).toNat ∧ (0x00#8).toNat ≤ 8)) ∧
    ¬ ((2 = 1 ∧ 0x09#8 = 0#8) ∨ (2 ≤ 2 ∧ 1 ≤ (0x09#8).toNat ∧ (0x09#8).toNat ≤ 8)) ∧
    ¬ ((1 = 1 ∧ 0x05#8 = 0#8) ∨ (2 ≤ 1 ∧ 1 ≤ (0x05#8).toNat ∧ (0x05#8).toNat ≤ 8)) := by decide +kernel

/-- UnpackStoresDecodedSymbols: "AB" from the payload 40 03; it fits at 0x40, leaves BUF at 65535, and
overlaps at 1. -/
theorem witness_unpack_stores : (∀ dst, DictInv (payloadAB dst)) ∧ dictAB.dictCount ≠ 0#32 ∧
    (payloadAB 0x40#32).argSrc + (payloadAB 0x40#32).argLen ≤ (payloadAB 0x40#32).bufBytes ∧
    (payloadAB 0x40#32).argLen = 2 ∧
    Memory.read (payloadAB 0x40#32).buf 0 = some 0x40#8 ∧ Memory.read (payloadAB 0x40#32).buf 1 = some 3#8 ∧
    (∀ x ∈ ([0x41#8, 0x42#8] : List Byte), dictAB.hasEntry x = true) ∧
    ([0x41#8, 0x42#8] : List Byte).flatMap dictAB.code =
      (([0x40#8] : List Byte).flatMap bitsOf).take (8 * (1 - 1) + (3#8).toNat) ∧
    dictAB.bufBytes < (payloadAB 65535#32).argDst + 2 ∧ (payloadAB 1#32).argDst + 2 ≤ dictAB.bufBytes ∧
    (payloadAB 1#32).argDst < (payloadAB 1#32).argSrc + 2 ∧
    ¬ ((payloadAB 0x40#32).argDst < (payloadAB 0x40#32).argSrc + 2) :=
  ⟨fun _ => witness_dictInv, by decide +kernel⟩

/-- UnpackReportsFirstUnmatchedBit: 60 03 is 'A' and then bits 11, at which no code stands (BU-8). -/
theorem witness_unpack_unmatched : DictInv (loaded [0x60#8, 0x03#8] 0#32 2#32 0x40#32) ∧
    dictAB.hasEntry 0x41#8 = true ∧ (∀ x, dictAB.hasEntry x = true → ¬ dictAB.code x <+: [true, true]) ∧
    ([0x41#8] : List Byte).flatMap dictAB.code ++ [true, true] =
      (([0x60#8] : List Byte).flatMap bitsOf).take (8 * (1 - 1) + (3#8).toNat) ∧
    Memory.read (loaded [0x60#8, 0x03#8] 0#32 2#32 0x40#32).buf 1 = some 3#8 := by
  refine ⟨witness_dictInv, by decide +kernel, ?_, by decide +kernel, by decide +kernel⟩
  intro x hx
  rw [hasEntry_AB] at hx
  rw [code_AB]
  rcases of_decide_eq_true hx with rfl | rfl <;> decide

/-- UnpackFrame. -/
theorem witness_unpack_next : ∃ t, exec .unpack (payloadAB 0x40#32) = .next t ∧ (t.errCode == none) = true :=
  next_of_nextAnd (by decide +kernel)

/-- ReadsHaveNoSideEffect, both clauses. -/
theorem witness_read : State.reset.busy = false ∧ ∃ t, hostRead 0x00000#17 .word State.reset = .next t :=
  ⟨rfl, _, rfl⟩

/-- BufWordsAreLittleEndian: a write at the last byte and at the last aligned word; the reads of the four
bytes of IF-4 at 0. -/
theorem witness_buf_word : (loaded [0x44#8, 0x33#8, 0x22#8, 0x11#8] 0 0 0).busy = false ∧
    65535 < dictAB.bufBytes ∧ 65532 % 4 = 0 ∧ 65532 + 4 ≤ dictAB.bufBytes ∧
    [0, 1, 2, 3].map (Memory.read (loaded [0x44#8, 0x33#8, 0x22#8, 0x11#8] 0 0 0).buf) =
      [some 0x44#8, some 0x33#8, some 0x22#8, some 0x11#8] := by decide +kernel
/-- IF-4, the read of that word. -/
theorem test_word_read : nextAnd (hostRead 0x10000#17 .word (loaded [0x44#8, 0x33#8, 0x22#8, 0x11#8] 0 0 0))
    (fun t => t.readData == 0x11223344#32) = true := by decide +kernel

/-- InvalidAccessesDoNothing: each case, at the edges of the register region and of BUF. -/
theorem witness_invalid : (0x0FFFF#17).toNat < 0x10000 ∧ (0x00001#17).toNat % 4 ≠ 0 ∧
    (0x103FF#17).toNat % 4 ≠ 0 ∧
    (0x103FF#17).toNat < 0x10000 + ({ State.reset with bufLog := 0 }).bufBytes := by decide +kernel

/-- ReservedAndReadOnlyIgnoreWrites: the first byte past a BUF of 1 KiB, the reserved offset of IF-6, and
the ROOT register of IF-7. -/
theorem witness_reserved : State.reset.busy = false ∧ regAt 0x0001C = none ∧
    0x10000 + ({ State.reset with bufLog := 0 }).bufBytes ≤ (0x10400#17).toNat ∧
    (0x00048#17).toNat = Reg.root.offset := by decide +kernel
/-- Program P2, step 5, and the last weight: each write reaches its own register. -/
theorem test_register_writes :
    nextAnd (hostWrite 0x00060#17 .word 0x80000000#32 State.reset) (fun t => t.codeStage[0] == 0x80000000#32) = true ∧
    nextAnd (hostWrite 0x007FC#17 .word 5#32 State.reset) (fun t => t.weight[255] == 5#32) = true := by
  decide +kernel

/-- WritesWhileBusyFault and ReadsWhileBusyAreExactOrFree: WEIGHT[0], the reserved offset 0x1C just past the
exact ones, the first byte of BUF, and a misaligned offset past a BUF of 1 KiB. -/
theorem witness_busy : (State.reset.accept 2#32).busy = true ∧ (0x00400#17).toNat % 4 = 0 ∧
    0x00400#17 ≠ 0x00008#17 ∧ 0x00400#17 ≠ 0x00010#17 ∧ (0x0001C#17).toNat % 4 = 0 ∧
    ¬ (0x0001C#17 = 0x00000#17 ∨ 0x0001C#17 = 0x00004#17 ∨ 0x0001C#17 = 0x00008#17 ∨ 0x0001C#17 = 0x0000C#17 ∨
      0x0001C#17 = 0x00010#17 ∨ 0x0001C#17 = 0x00014#17 ∨ 0x0001C#17 = 0x00018#17) ∧
    0x10000 ≤ (0x10000#17).toNat ∧
    0x10000 + ({ State.reset with bufLog := 0 }).bufBytes ≤ (0x10401#17).toNat := by decide +kernel

/-- HardResetClearsAll: while a command runs. -/
theorem witness_hard_reset :
    ({ dictAB.accept 2#32 with inputs := [.hardReset] }).inputs = .hardReset :: [] := rfl

/-- StepKeepsMemInv, StepKeepsErrInv, StepKeepsEngineInv and WrittenBytesStayWritten: the invariants in a
state whose next step runs PACK. -/
theorem witness_memInv : MemInv (packAB.accept 0x30#32) := by decide +kernel
theorem witness_errInv : ErrInv (packAB.accept 0x30#32) ∧ ErrInv (packAB.raise .rangeError 1#32) := by
  decide +kernel
theorem witness_engineInv : EngineInv (packAB.accept 0x30#32) := by
  intro e he
  cases he
  exact ⟨rfl, rfl, fun h => absurd h Bool.false_ne_true, rfl⟩
theorem witness_step_next : ∃ t, step (packAB.accept 0x30#32) = .next t ∧ t.done = true :=
  next_of_nextAnd (by decide +kernel)
theorem witness_written : Memory.read (packAB.accept 0x30#32).buf 0 ≠ none ∧
    ∀ rest, (packAB.accept 0x30#32).inputs ≠ .hardReset :: rest :=
  ⟨by decide +kernel, fun _ h => List.cons_ne_nil _ _ h.symm⟩

/-- StepKeepsTreeInv and StepKeepsDictInv: a state with a tree whose next step runs GEN. -/
theorem witness_tree_step : TreeInv (treeAB.accept 0x11#32) ∧ DictInv (treeAB.accept 0x11#32) ∧
    ∃ t, step (treeAB.accept 0x11#32) = .next t :=
  ⟨witness_treeInv, witness_dictInv_reset, _, rfl⟩

/-- StepStopsOnlyOnFaults: both faults occur. -/
theorem witness_faults :
    step { State.reset with inputs := [.access (.read 0x10040#17 .byte)] } = .fault (.unwrittenBufByte 0x40) ∧
    step { State.reset.accept 2#32 with inputs := [.access (.write 0x00020#17 .word 0#32)] } =
      .fault (.writeWhileBusy 0x00020#17) := ⟨rfl, rfl⟩

/-- StepStopsOnlyOnFaults, the reads that must fault: a byte and a word whose second byte is unwritten, PACK
at its second symbol, and UNPACK at its metadata byte and, with that written, at its first data byte. -/
theorem witness_must_fault :
    (loaded [0x41#8] 0#32 2#32 0x40#32).busy = false ∧
    (loaded [0x41#8] 0#32 2#32 0x40#32).argSrc + (loaded [0x41#8] 0#32 2#32 0x40#32).argLen ≤ dictAB.bufBytes ∧
    dictAB.dictCount ≠ 0#32 ∧ (loaded [0x41#8] 0#32 2#32 0x40#32).argLen = 2 ∧
    Memory.read (loaded [0x41#8] 0#32 2#32 0x40#32).buf 0 = some 0x41#8 ∧ tableGet dictAB.codeLen 0x41#8 ≠ 0#8 ∧
    Memory.read (loaded [0x41#8] 0#32 2#32 0x40#32).buf 1 = none ∧
    Memory.read (Memory.writeList [] 1 [0x03#8]) 1 = some 0x03#8 ∧
    Memory.read (Memory.writeList [] 1 [0x03#8]) 0 = none := by decide +kernel

/-- RegisterMapMatchesOffsets and CodeBitsReadLeftAligned, at the last register and the last bit. -/
theorem witness_last_register : 0x05FEC < 0x10000 ∧ 0x05FEC % 4 = 0 ∧ 31 < 32 ∧
    regAt 0x05FEC = some (.node 510 .link) := by decide +kernel

/-- ReachableDictionaryPrefixFree and ReachableArenaIsTree. -/
theorem witness_reachable : Reachable State.reset := .reset 6 []

end Sys2Proof.Tests
end

section
/-! PROOFS. What a command that commits has staged, and what the commands leave unchanged. -/

namespace Sys2Proof.Machine

/-- The states a command can stage, with the guards its rule checked (R116, R117, R130, R133, R150, R153,
R154, R170, R185). -/
inductive Staged (s : State) : Instr → State → Prop where
  | nop : Staged s .nop s
  | sreset : Staged s .sreset (sresetStaged s)
  | wclear : Staged s .wclear (wclearStaged s)
  | build (two : 2 ≤ (leafSet s.weight).length) : Staged s .build (buildStaged s)
  | gen (tree : s.treeValid = true) : Staged s .gen (genStaged s)
  | dclear : Staged s .dclear s.clearDictionary
  | dadd (sym len : Byte) (nonempty : len ≠ 0#8) (new : s.hasEntry sym = false)
      (free : firstConflict s (s.stagedCode len) = none) :
      Staged s (.dadd sym len) (s.addEntry sym (s.stagedCode len))
  | pack (xs : List Byte) (source : s.InRange s.argSrc s.argLen) (count : s.dictCount ≠ 0#32)
      (scan : packSymbols s s.argLen s.argSrc 0 = .ok xs)
      (range : s.InRange s.argDst (dataBytes (codeString s xs).length + 1))
      (apart : ¬ Overlap s.argSrc s.argLen s.argDst (dataBytes (codeString s xs).length + 1)) :
      Staged s .pack (packStaged s s.argDst (codeString s xs))
  | unpack (data xs : List Byte) (m : Byte) (source : s.InRange s.argSrc s.argLen)
      (count : s.dictCount ≠ 0#32) (length : s.argLen ≠ 0)
      (metadata : s.bufRead (s.argSrc + (s.argLen - 1)) = .ok m) (metaOK : MetaOK (s.argLen - 1) m.toNat)
      (read : s.bufReadList s.argSrc (s.argLen - 1) = .ok data)
      (decoded : decodeAll s (meaningfulBits data m.toNat) = .ok xs)
      (range : s.InRange s.argDst xs.length) (apart : ¬ Overlap s.argSrc s.argLen s.argDst xs.length) :
      Staged s .unpack
        (unpackStaged s s.argDst (meaningfulBits data m.toNat).length m.toNat xs)

theorem buildBody_ok {s u : State} (h : buildBody s = .ok u) :
    2 ≤ (leafSet s.weight).length ∧ u = buildStaged s := by
  unfold buildBody at h
  dsimp only at h
  split at h
  · cases h
  · exact ⟨by omega, by simpa using h.symm⟩

theorem genBody_ok {s u : State} (h : genBody s = .ok u) : s.treeValid = true ∧ u = genStaged s := by
  unfold genBody at h
  split at h
  · exact ⟨by assumption, by simpa using h.symm⟩
  · cases h

theorem daddBody_ok {s u : State} {sym len : Byte} (h : daddBody sym len s = .ok u) :
    len ≠ 0#8 ∧ s.hasEntry sym = false ∧ firstConflict s (s.stagedCode len) = none ∧
      u = s.addEntry sym (s.stagedCode len) := by
  unfold daddBody at h
  dsimp only at h
  split at h
  · cases h
  · rename_i hlen
    split at h
    · cases h
    · rename_i hnew
      split at h
      · cases h
      · exact ⟨hlen, by simpa using hnew, by assumption, by simpa using h.symm⟩

theorem packBody_ok {s u : State} (h : packBody s = .ok u) : Staged s .pack u := by
  unfold packBody at h
  split at h
  · cases h
  · rename_i hsrc
    split at h
    · cases h
    · rename_i hcount
      split at h
      · cases h
      · rename_i xs hxs
        unfold packStore at h
        split at h
        · cases h
        · rename_i hdst
          split at h
          · cases h
          · rename_i hov
            cases h
            exact .pack xs (Decidable.not_not.1 hsrc) hcount hxs (Decidable.not_not.1 hdst) hov

theorem unpackDecode_ok {s u : State} {data : List Byte} {m : Nat} (h : unpackDecode s data m = .ok u) :
    ∃ xs, decodeAll s (meaningfulBits data m) = .ok xs ∧ s.InRange s.argDst xs.length ∧
      ¬ Overlap s.argSrc s.argLen s.argDst xs.length ∧
      u = unpackStaged s s.argDst (meaningfulBits data m).length m xs := by
  unfold unpackDecode at h
  dsimp only at h
  split at h
  · cases h
  · rename_i xs hxs
    unfold unpackStore at h
    split at h
    · cases h
    · rename_i hdst
      split at h
      · cases h
      · rename_i hov
        exact ⟨xs, hxs, Decidable.not_not.1 hdst, hov, by simpa using h.symm⟩

theorem unpackBody_ok {s u : State} (h : unpackBody s = .ok u) : Staged s .unpack u := by
  unfold unpackBody at h
  split at h
  · cases h
  · rename_i hsrc
    split at h
    · cases h
    · rename_i hcount
      split at h
      · cases h
      · rename_i hlen
        split at h
        · cases h
        · rename_i m hm
          split at h
          · cases h
          · rename_i hmeta
            split at h
            · cases h
            · rename_i data hdata
              obtain ⟨xs, hxs, hdst, hov, rfl⟩ := unpackDecode_ok h
              exact .unpack data xs m (Decidable.not_not.1 hsrc) hcount hlen hm
                (Decidable.not_not.1 hmeta) hdata hxs hdst hov

/-- Everything a command's rule can stage. -/
theorem staged_of_body {i : Instr} {s u : State} (h : body i s = .ok u) : Staged s i u := by
  cases i with
  | nop => cases h; exact .nop
  | sreset => cases h; exact .sreset
  | wclear => cases h; exact .wclear
  | build => obtain ⟨h2, rfl⟩ := buildBody_ok h; exact .build h2
  | gen => obtain ⟨ht, rfl⟩ := genBody_ok h; exact .gen ht
  | dclear => cases h; exact .dclear
  | dadd sym len => obtain ⟨hl, hn, hf, rfl⟩ := daddBody_ok h; exact .dadd sym len hl hn hf
  | pack => exact packBody_ok h
  | unpack => exact unpackBody_ok h

/-! ## Which error a rule raises (R201) -/

theorem packBody_raise {s : State} {k : ErrKind} {info : Word} (h : packBody s = .error (.raise k info)) :
    k ∈ raisable .pack := by
  unfold packBody packStore at h
  split at h
  · cases h; decide
  · split at h
    · cases h; decide
    · split at h
      · rename_i e he
        obtain ⟨_, _, _, ⟨_, rfl⟩ | ⟨x, _, _, rfl⟩⟩ := packSymbols_error he
        · cases h
        · cases h; decide
      · split at h
        · cases h; decide
        · split at h
          · cases h; decide
          · cases h

theorem unpackDecode_raise {s : State} {data : List Byte} {m : Nat} {k : ErrKind} {info : Word}
    (h : unpackDecode s data m = .error (.raise k info)) : k ∈ raisable .unpack := by
  unfold unpackDecode unpackStore at h
  dsimp only at h
  split at h
  · cases h; decide
  · split at h
    · cases h; decide
    · split at h
      · cases h; decide
      · cases h

theorem unpackBody_raise {s : State} {k : ErrKind} {info : Word}
    (h : unpackBody s = .error (.raise k info)) : k ∈ raisable .unpack := by
  unfold unpackBody at h
  split at h
  · cases h; decide
  · split at h
    · cases h; decide
    · split at h
      · cases h; decide
      · split at h
        · rename_i e he
          obtain ⟨_, rfl⟩ := bufRead_error.1 he
          cases h
        · split at h
          · cases h; decide
          · split at h
            · rename_i e he
              obtain ⟨b, rfl, _⟩ := bufReadList_error he
              cases h
            · exact unpackDecode_raise h

/-- A command's rule raises only the kinds R201 gives it. -/
theorem raisable_of_body {i : Instr} {s : State} {k : ErrKind} {info : Word}
    (h : body i s = .error (.raise k info)) : k ∈ raisable i := by
  cases i with
  | nop => cases h
  | sreset => cases h
  | wclear => cases h
  | build =>
    simp only [body, buildBody] at h
    split at h <;> cases h
    decide
  | gen =>
    simp only [body, genBody] at h
    split at h <;> cases h
    decide
  | dclear => cases h
  | dadd sym len =>
    simp only [body, daddBody] at h
    split at h
    · cases h; simp [raisable]
    · split at h
      · cases h; simp [raisable]
      · split at h <;> cases h
        simp [raisable]
  | pack => exact packBody_raise h
  | unpack => exact unpackBody_raise h

/-- The reserved kinds are raised by no command (R200). -/
theorem reserved_not_raisable (i : Instr) : .ioError ∉ raisable i ∧ .parseError ∉ raisable i := by
  cases i <;> simp [raisable]

theorem not_reserved_of_raisable {i : Instr} {k : ErrKind} (h : k ∈ raisable i) :
    k ≠ .ioError ∧ k ≠ .parseError := by
  obtain ⟨hio, hparse⟩ := reserved_not_raisable i
  exact ⟨fun heq => hio (heq ▸ h), fun heq => hparse (heq ▸ h)⟩

/-! ## Frames of what is staged -/

/-- Entries added one after the other change nothing but the dictionary. -/
theorem addEntries_eq (s : State) (es : List (Byte × Bits)) :
    addEntries s es = { s with
      codeLen := (addEntries s es).codeLen, codeBits := (addEntries s es).codeBits,
      dictOrder := (addEntries s es).dictOrder, dictCount := (addEntries s es).dictCount } := by
  induction es generalizing s with
  | nil => rfl
  | cons e es ih => exact ih (s.addEntry e.1 e.2)

/-- GEN stages nothing but the dictionary (R150). -/
theorem genStaged_eq (s : State) :
    genStaged s = { s with
      codeLen := (genStaged s).codeLen, codeBits := (genStaged s).codeBits,
      dictOrder := (genStaged s).dictOrder, dictCount := (genStaged s).dictCount } :=
  addEntries_eq s.clearDictionary (genEntries s)

/-- What no command but SRESET stages: the operand registers, IRQ_EN, LASTCMD, REJ, ERR, ERR_CODE and
ERR_INFO, and the model's own fields. -/
theorem Staged.shell {i : Instr} {s u : State} (h : Staged s i u) (hi : i ≠ .sreset) :
    SameShell s u ∧ u.err = s.err ∧ u.errCode = s.errCode ∧ u.errInfo = s.errInfo := by
  cases h with
  | sreset => exact absurd rfl hi
  | gen => rw [genStaged_eq]; exact ⟨⟨⟨rfl, rfl, rfl, rfl⟩, rfl, rfl, rfl, rfl, rfl, rfl, rfl⟩, rfl, rfl, rfl⟩
  | _ => exact ⟨⟨⟨rfl, rfl, rfl, rfl⟩, rfl, rfl, rfl, rfl, rfl, rfl, rfl⟩, rfl, rfl, rfl⟩

/-- BUF is staged only by PACK and UNPACK, and RES0 to RES2 also by SRESET (R29, R38). -/
theorem Staged.buf {i : Instr} {s u : State} (h : Staged s i u) (hp : i ≠ .pack) (hu : i ≠ .unpack) :
    u.buf = s.buf ∧ (i ≠ .sreset → SameResults s u) := by
  cases h with
  | pack => exact absurd rfl hp
  | unpack => exact absurd rfl hu
  | sreset => exact ⟨rfl, fun h => absurd rfl h⟩
  | gen => rw [genStaged_eq]; exact ⟨rfl, fun _ => ⟨rfl, rfl, rfl⟩⟩
  | _ => exact ⟨rfl, fun _ => ⟨rfl, rfl, rfl⟩⟩

/-- The weights are staged only by WCLEAR and SRESET (R32). -/
theorem Staged.weight {i : Instr} {s u : State} (h : Staged s i u) (hw : i ≠ .wclear) (hs : i ≠ .sreset) :
    u.weight = s.weight := by
  cases h with
  | wclear => exact absurd rfl hw
  | sreset => exact absurd rfl hs
  | gen => rw [genStaged_eq]
  | _ => rfl

/-- The node arena is staged only by BUILD and SRESET (R33). -/
theorem Staged.tree {i : Instr} {s u : State} (h : Staged s i u) (hb : i ≠ .build) (hs : i ≠ .sreset) :
    SameTree s u := by
  cases h with
  | build => exact absurd rfl hb
  | sreset => exact absurd rfl hs
  | gen => rw [genStaged_eq]; exact ⟨rfl, rfl, rfl, rfl, rfl⟩
  | _ => exact ⟨rfl, rfl, rfl, rfl, rfl⟩

/-- The dictionary is staged only by GEN, DCLEAR, DADD and SRESET (R35). -/
theorem Staged.dictionary {i : Instr} {s u : State} (h : Staged s i u) (hg : i ≠ .gen) (hc : i ≠ .dclear)
    (hd : ∀ sym len, i ≠ .dadd sym len) (hs : i ≠ .sreset) : SameDictionary s u := by
  cases h with
  | gen => exact absurd rfl hg
  | dclear => exact absurd rfl hc
  | dadd sym len => exact absurd rfl (hd sym len)
  | sreset => exact absurd rfl hs
  | _ => exact ⟨rfl, rfl, rfl, rfl⟩

/-- No command stages a change of BUF_BYTES (R6). -/
theorem Staged.bufLog {i : Instr} {s u : State} (h : Staged s i u) : u.bufLog = s.bufLog := by
  by_cases hi : i = .sreset
  · subst hi
    cases h
    rfl
  · obtain ⟨⟨_, _, _, _, hlog, _⟩, _⟩ := h.shell hi
    exact hlog

/-- A command that answers committed what it staged, or raised one of its errors. -/
theorem exec_next {i : Instr} {s t : State} (h : exec i s = .next t) :
    (∃ u, Staged s i u ∧ t = u.commit) ∨ (∃ k info, k ∈ raisable i ∧ t = s.raise k info) := by
  rw [exec_eq] at h
  rcases complete_next h with ⟨u, hu, rfl⟩ | ⟨k, info, hk, rfl⟩
  · exact .inl ⟨u, staged_of_body hu, rfl⟩
  · exact .inr ⟨k, info, raisable_of_body hk, rfl⟩

/-- Settles O37: a commit sets DONE and clears BUSY over the staged state, and a raise over the state the
command found. -/
theorem commandsKeepShell : Obligations.CommandsKeepShell := by
  intro i s t hi h
  rcases exec_next h with ⟨u, hu, rfl⟩ | ⟨k, info, _, rfl⟩
  · obtain ⟨hshell, herr, hcode, hinfo⟩ := hu.shell hi
    exact ⟨hshell, rfl, rfl, .inl ⟨herr, hcode, hinfo⟩⟩
  · exact ⟨⟨⟨rfl, rfl, rfl, rfl⟩, rfl, rfl, rfl, rfl, rfl, rfl, rfl⟩, rfl, rfl, .inr ⟨rfl, by simp⟩⟩

/-- Settles O38. -/
theorem onlyPackUnpackWriteBuf : Obligations.OnlyPackUnpackWriteBuf := by
  intro i s t hp hu h
  rcases exec_next h with ⟨u, hstaged, rfl⟩ | ⟨k, info, _, rfl⟩
  · obtain ⟨hbuf, hres⟩ := hstaged.buf hp hu
    exact ⟨fun a => by rw [State.commit_buf, hbuf], hres⟩
  · exact ⟨fun _ => rfl, fun _ => ⟨rfl, rfl, rfl⟩⟩

/-- Settles O39. -/
theorem commandsKeepOtherTables : Obligations.CommandsKeepOtherTables := by
  intro i s t h
  rcases exec_next h with ⟨u, hu, rfl⟩ | ⟨k, info, _, rfl⟩
  · exact ⟨hu.weight, hu.tree, hu.dictionary⟩
  · exact ⟨fun _ _ => rfl, fun _ _ => ⟨rfl, rfl, rfl, rfl, rfl⟩, fun _ _ _ _ => ⟨rfl, rfl, rfl, rfl⟩⟩

end Sys2Proof.Machine
end

section
/-! PROOFS. What every step keeps: the closure conditions of an invariant, packaged once, and the
invariants of BUF, of the recorded error and of the running command. -/

namespace Sys2Proof.Machine

/-! ## Invariants of steps -/

/-- P is kept by everything a step can do (`step_next`, `hostRead_next`, `hostWrite_next`, `exec_next`). -/
structure StepClosed (P : State → Prop) : Prop where
  inputs : ∀ s is, P s → P { s with inputs := is }
  respond : ∀ s v n, P s → P { s with readData := v, draws := n }
  writeReg : ∀ s v r, P s → (s.busy = true → r.writableWhileBusy = true) → P (s.writeReg v r)
  bufWrite : ∀ s a vs, P s → a + vs.length ≤ s.bufBytes → P (s.bufWriteList a vs)
  commit : ∀ i s u, P s → Staged s i u → P u.commit
  raise : ∀ s k info, P s → k ≠ .ioError → k ≠ .parseError → P (s.raise k info)
  hardReset : ∀ s, P s → P s.hardReset

/-- A command that answers keeps what its commits and its raises keep. -/
theorem StepClosed.exec {P : State → Prop} (hP : StepClosed P) {i : Instr} {s t : State} (hs : P s)
    (h : exec i s = .next t) : P t := by
  rcases exec_next h with ⟨u, hu, rfl⟩ | ⟨k, info, hk, rfl⟩
  · exact hP.commit i s u hs hu
  · obtain ⟨hio, hparse⟩ := not_reserved_of_raisable hk
    exact hP.raise s k info hs hio hparse

theorem StepClosed.engineStep {P : State → Prop} (hP : StepClosed P) {s t : State} (hs : P s)
    (h : engineStep s = .next t) : P t := by
  rcases engineStep_next h with ⟨_, rfl⟩ | ⟨e, i, _, _, h⟩ | ⟨e, r, _, _, rfl⟩
  · exact hs
  · exact hP.exec hs h
  · exact hP.raise s .illegalCommand e.cmd hs (by decide) (by decide)

theorem StepClosed.hostRead {P : State → Prop} (hP : StepClosed P) {off : BitVec 17} {size : AccessSize}
    {s t : State} (hs : P s) (h : hostRead off size s = .next t) : P t := by
  rcases hostRead_next h with ⟨v, rfl⟩ | rfl
  · exact hP.respond s v s.draws hs
  · exact hP.respond s _ _ hs

theorem StepClosed.hostWrite {P : State → Prop} (hP : StepClosed P) {off : BitVec 17} {size : AccessSize}
    {v : Word} {s t : State} (hs : P s) (h : hostWrite off size v s = .next t) : P t := by
  rcases hostWrite_next h with rfl | ⟨r, rfl, hr⟩ | ⟨_, a, vs, rfl, hrange⟩
  · exact hs
  · exact hP.writeReg s v r hs hr
  · exact hP.bufWrite s a vs hs hrange

/-- A step keeps what everything a step can do keeps. -/
theorem StepClosed.step {P : State → Prop} (hP : StepClosed P) {s t : State} (hs : P s)
    (h : step s = .next t) : P t := by
  rcases step_next h with ⟨is, h⟩ | ⟨is, off, size, h⟩ | ⟨is, off, size, v, h⟩ | ⟨is, rfl⟩
  · exact hP.engineStep (hP.inputs s is hs) h
  · exact hP.hostRead (hP.inputs s is hs) h
  · exact hP.hostWrite (hP.inputs s is hs) h
  · exact hP.hardReset _ (hP.inputs s is hs)

/-- What holds at reset and is kept by every step holds of every reachable state. -/
theorem StepClosed.reachable {P : State → Prop} (hP : StepClosed P)
    (hreset : ∀ (k : Fin 7) (is : List Input), P { State.reset with bufLog := k, inputs := is })
    {s : State} (h : Reachable s) : P s := by
  induction h with
  | reset k is => exact hreset k is
  | step _ hst ih => exact hP.step ih hst

/-! ## BUF_BYTES -/

theorem bufLog_stepClosed (k : Fin 7) : StepClosed (fun s => s.bufLog = k) where
  inputs _ _ h := h
  respond _ _ _ h := h
  writeReg s v r h _ := (writeReg_frame s v r).2.1.trans h
  bufWrite _ _ _ h _ := h
  commit _ _ _ h hu := hu.bufLog.trans h
  raise _ _ _ h _ _ := h
  hardReset _ h := h

/-! ## BUF -/

/-- Bytes stored inside BUF keep its canonical form and its bound (R78, R79). -/
theorem memInv_writeList {s : State} {a : Nat} {vs : List Byte} (h : MemInv s)
    (hrange : a + vs.length ≤ s.bufBytes) : MemInv (s.bufWriteList a vs) := by
  obtain ⟨hwf, hlt⟩ := h
  refine ⟨Memory.wf_writeList hwf a vs, fun c hc => ?_⟩
  show c.1 < s.bufBytes
  rcases Memory.mem_writeList hc with h | h
  · omega
  · exact hlt c h

theorem memInv_congr {s t : State} (h : MemInv s) (hbuf : t.buf = s.buf) (hlog : t.bufLog = s.bufLog) :
    MemInv t := by
  unfold MemInv State.bufBytes
  rw [hbuf, hlog]
  exact h

/-- A command stores only in the range it checked (R170, R185). -/
theorem Staged.memInv {i : Instr} {s u : State} (h : Staged s i u) (hs : MemInv s) : MemInv u := by
  cases h with
  | pack xs _ _ _ range _ =>
    have hstore : MemInv (s.bufWriteList s.argDst (payload (codeString s xs))) :=
      memInv_writeList hs (by rw [length_payload]; exact range)
    exact hstore
  | unpack data xs m _ _ _ _ _ _ _ range _ =>
    have hstore : MemInv (s.bufWriteList s.argDst xs) := memInv_writeList hs range
    exact hstore
  | gen => exact memInv_congr hs (by rw [genStaged_eq]) (by rw [genStaged_eq])
  | _ => exact hs

theorem memInv_stepClosed : StepClosed MemInv where
  inputs _ _ h := h
  respond _ _ _ h := h
  writeReg s v r h _ :=
    have ⟨hbuf, hlog, _⟩ := writeReg_frame s v r
    memInv_congr h hbuf hlog
  bufWrite _ _ _ h hrange := memInv_writeList h hrange
  commit _ _ _ h hu := hu.memInv h
  raise _ _ _ h _ _ := h
  hardReset _ _ := ⟨Memory.wf_nil, fun _ hc => absurd hc List.not_mem_nil⟩

/-! ## The recorded error -/

theorem errInv_clear {s : State} (herr : s.err = false) (hcode : s.errCode = none)
    (hinfo : s.errInfo = 0#32) : ErrInv s := by
  simp [ErrInv, herr, hcode, hinfo]

/-- A STATUS write clears ERR, ERR_CODE and ERR_INFO together (R24). -/
theorem errInv_clearStatus {s : State} (h : ErrInv s) (v : Word) : ErrInv (s.clearStatus v) := by
  cases hv : v.getLsbD 2 with
  | true => exact errInv_clear (by simp [hv]) (by simp [hv]) (by simp [hv])
  | false =>
    simpa only [ErrInv, State.clearStatus_err, State.clearStatus_errCode, State.clearStatus_errInfo, hv,
      Bool.not_false, Bool.and_true, Bool.false_eq_true, if_false] using h

theorem errInv_issue {s : State} (h : ErrInv s) (w : Word) : ErrInv (s.issue w) := by
  unfold State.issue
  split
  · exact h
  · split <;> exact h

theorem errInv_writeReg {s : State} (h : ErrInv s) (v : Word) (r : Reg) : ErrInv (s.writeReg v r) := by
  cases r with
  | status => exact errInv_clearStatus h v
  | cmd => exact errInv_issue h v
  | _ => exact h

theorem Staged.errInv {i : Instr} {s u : State} (h : Staged s i u) (hs : ErrInv s) : ErrInv u := by
  by_cases hi : i = .sreset
  · subst hi
    cases h
    exact errInv_clear rfl rfl rfl
  · obtain ⟨_, herr, hcode, hinfo⟩ := h.shell hi
    unfold ErrInv
    rw [herr, hcode, hinfo]
    exact hs

theorem errInv_stepClosed : StepClosed ErrInv where
  inputs _ _ h := h
  respond _ _ _ h := h
  writeReg _ v r h _ := errInv_writeReg h v r
  bufWrite _ _ _ h _ := h
  commit _ _ _ h hu := hu.errInv h
  raise s k info _ hio hparse := by simp [ErrInv, hio, hparse]
  hardReset _ _ := errInv_clear rfl rfl rfl

/-! ## The running command -/

/-- With no command running there is nothing to keep. -/
theorem engineInv_idle {s : State} (h : s.engine = none) : EngineInv s := by
  intro e he
  rw [h] at he
  cases he

theorem not_busy_iff {s : State} : s.busy = false ↔ s.engine = none := by
  simp [State.busy]

/-- A STATUS write only clears flags, which a running command has clear or may find cleared (R24, R233). -/
theorem engineInv_clearStatus {s : State} (h : EngineInv s) (v : Word) : EngineInv (s.clearStatus v) := by
  intro e he
  obtain ⟨hdone, hlast, herr, hcopies⟩ := h e he
  refine ⟨by simp [hdone], hlast, fun hclear => herr ?_, hcopies⟩
  simp only [State.clearStatus_err, Bool.and_eq_true] at hclear
  exact hclear.1

/-- A CMD write is rejected, or it starts a command that meets the invariant (R110 to R112). -/
theorem engineInv_issue {s : State} (h : EngineInv s) (w : Word) : EngineInv (s.issue w) := by
  unfold State.issue
  split
  · exact h
  · split
    · exact h
    · rename_i herr
      intro e he
      cases he
      exact ⟨rfl, rfl, fun hs => Decidable.byContradiction fun hw => herr ⟨hs, hw⟩, rfl⟩

/-- A register that is not writable while a command runs is written with none running (R233). -/
theorem idle_of_not_writableWhileBusy {s : State} {r : Reg}
    (hr : s.busy = true → r.writableWhileBusy = true) (hw : r.writableWhileBusy = false) :
    s.engine = none := by
  rw [← not_busy_iff]
  simpa [hw] using hr

theorem engineInv_writeReg {s : State} (h : EngineInv s) (v : Word) (r : Reg)
    (hr : s.busy = true → r.writableWhileBusy = true) : EngineInv (s.writeReg v r) := by
  cases r with
  | status => exact engineInv_clearStatus h v
  | cmd => exact engineInv_issue h v
  | _ => exact engineInv_idle (idle_of_not_writableWhileBusy hr rfl)

theorem engineInv_stepClosed : StepClosed EngineInv where
  inputs _ _ h := h
  respond _ _ _ h := h
  writeReg _ v r h hr := engineInv_writeReg h v r hr
  bufWrite _ _ _ h _ := h
  commit _ _ _ _ _ := engineInv_idle rfl
  raise _ _ _ _ _ _ := engineInv_idle rfl
  hardReset _ _ := engineInv_idle rfl

/-! ## Settled -/

/-- Settles O51: stores stay inside BUF, by the host's targets and by the range checks of PACK and UNPACK. -/
theorem stepKeepsMemInv : Obligations.StepKeepsMemInv :=
  fun _ _ hs h => memInv_stepClosed.step hs h

/-- Settles O52. -/
theorem stepKeepsErrInv : Obligations.StepKeepsErrInv :=
  fun _ _ hs h => errInv_stepClosed.step hs h

/-- Settles O53. -/
theorem stepKeepsEngineInv : Obligations.StepKeepsEngineInv :=
  fun _ _ hs h => engineInv_stepClosed.step hs h

end Sys2Proof.Machine
end

section
/-! PROOFS. BUILD makes a full binary tree: the invariant of its merges (R133), read back from the node
table (R33, R37), and no step undoes it. -/

namespace Sys2Proof.Machine

/-! ## Entries of the arena -/

theorem arenaAt_append_left (arena more : List Node) {i : Nat} (h : i < arena.length) :
    arenaAt (arena ++ more) i = arenaAt arena i := by
  rw [arenaAt, arenaAt, List.getD_eq_getElem?_getD, List.getD_eq_getElem?_getD,
    List.getElem?_append_left h]

theorem arenaAt_append_self (arena : List Node) (n : Node) : arenaAt (arena ++ [n]) arena.length = n := by
  simp [arenaAt]

/-- The indices from n to k − 1. -/
theorem mem_drop_range {n k i : Nat} : i ∈ (List.range k).drop n ↔ n ≤ i ∧ i < k := by
  simp only [List.mem_drop_iff_getElem, List.getElem_range, List.length_range]
  constructor
  · rintro ⟨j, hj, rfl⟩
    omega
  · rintro ⟨hn, hk⟩
    exact ⟨i - n, by omega, by omega⟩

/-! ## The selection -/

theorem leastFrom_mem (arena : List Node) (a : Nat) (as : List Nat) : leastFrom arena a as ∈ a :: as := by
  induction as generalizing a with
  | nil => exact List.mem_singleton.2 rfl
  | cons b bs ih =>
    have h := ih (if precedes arena b a then b else a)
    unfold leastFrom
    rcases List.mem_cons.1 h with h | h
    · rw [h]
      split <;> simp
    · exact List.mem_cons_of_mem _ (List.mem_cons_of_mem _ h)

/-- The selection picks an element of a forest that is not empty. -/
theorem least_of_ne_nil (arena : List Node) {forest : List Nat} (h : forest ≠ []) :
    ∃ a ∈ forest, least arena forest = some a := by
  cases forest with
  | nil => exact absurd rfl h
  | cons a as => exact ⟨_, leastFrom_mem arena a as, rfl⟩

/-- A merge of a forest of two or more takes two of its elements out and puts the new node in (R133). -/
theorem mergeOnce_eq (arena : List Node) {forest : List Nat} (h : 2 ≤ forest.length) :
    ∃ a b rest, least arena forest = some a ∧ least arena (forest.erase a) = some b ∧
      forest.Perm (a :: b :: rest) ∧
      mergeOnce arena forest = (arena ++ [mergeNode arena a b], rest ++ [arena.length]) := by
  obtain ⟨a, ha, hleast⟩ := least_of_ne_nil arena (forest := forest) (by rintro rfl; simp at h)
  have hlen := List.length_erase_of_mem ha
  obtain ⟨b, hb, hleast'⟩ := least_of_ne_nil arena (forest := forest.erase a)
    (fun hnil => by rw [hnil, List.length_nil] at hlen; omega)
  refine ⟨a, b, (forest.erase a).erase b, hleast, hleast', ?_, by simp only [mergeOnce, hleast, hleast']⟩
  exact (List.perm_cons_erase ha).trans ((List.perm_cons_erase hb).cons a)

/-! ## The invariant of the merges -/

/-- The weight of an arena entry as a number. -/
def arenaWeight (arena : List Node) (i : Nat) : Nat := (arenaAt arena i).weight.toNat

/-- Entry j of an arena is an internal node, as `State.internalAt` says it of the node table. -/
def ArenaInternal (arena : List Node) (j : Nat) : Prop :=
  (arenaAt arena j).leaf = false ∧ (arenaAt arena j).symbol = 0#8 ∧
    (arenaAt arena j).left.toNat < j ∧ (arenaAt arena j).right.toNat < j ∧
    arenaWeight arena j = arenaWeight arena (arenaAt arena j).left.toNat +
      arenaWeight arena (arenaAt arena j).right.toNat

/-- The child indices of the entries of an arena from n on, as `State.childList` lists them. -/
def arenaChildren (arena : List Node) (n : Nat) : List Nat :=
  ((List.range arena.length).drop n).flatMap
    (fun j => [(arenaAt arena j).left.toNat, (arenaAt arena j).right.toNat])

/-- What holds of the arena and the forest between BUILD's merges (R133): the leaves stand first, the
entries after them are internal nodes, every entry is either in the forest or the child of exactly one
entry, and the forest has the weight of the leaves. -/
structure ForestInv (leaves arena : List Node) (forest : List Nat) : Prop where
  leavesFirst : leaves <+: arena
  internal : ∀ j, leaves.length ≤ j → j < arena.length → ArenaInternal arena j
  nodes : (forest ++ arenaChildren arena leaves.length).Perm (List.range arena.length)
  weight : (forest.map (arenaWeight arena)).sum = (leaves.map (·.weight.toNat)).sum

theorem length_arenaChildren (arena : List Node) (n : Nat) :
    (arenaChildren arena n).length = 2 * (arena.length - n) := by
  simp only [arenaChildren, List.length_flatMap, List.length_cons, List.length_nil, List.map_const',
    List.sum_replicate_nat, List.length_drop, List.length_range]
  omega

/-- A merge adds the two merged indices to the children. -/
theorem arenaChildren_mergeNode {arena : List Node} {n a b : Nat} (hn : n ≤ arena.length) (ha : a < 512)
    (hb : b < 512) :
    arenaChildren (arena ++ [mergeNode arena a b]) n = arenaChildren arena n ++ [a, b] := by
  have hold : ((List.range arena.length).drop n).map
      (fun j => [(arenaAt (arena ++ [mergeNode arena a b]) j).left.toNat,
        (arenaAt (arena ++ [mergeNode arena a b]) j).right.toNat]) =
      ((List.range arena.length).drop n).map
        (fun j => [(arenaAt arena j).left.toNat, (arenaAt arena j).right.toNat]) :=
    List.map_congr_left fun j hj => by rw [arenaAt_append_left _ _ (mem_drop_range.1 hj).2]
  unfold arenaChildren
  rw [List.length_append, List.length_singleton, List.range_succ,
    List.drop_append_of_le_length (by simpa using hn), List.flatMap_append,
    List.flatMap_singleton, arenaAt_append_self, List.flatMap_def, hold, ← List.flatMap_def]
  simp only [mergeNode, BitVec.toNat_ofNat, Nat.mod_eq_of_lt ha, Nat.mod_eq_of_lt hb]

/-- An entry that was internal stays so when the arena grows. -/
theorem ArenaInternal.append {arena : List Node} {j : Nat} (h : ArenaInternal arena j)
    (hj : j < arena.length) (more : List Node) : ArenaInternal (arena ++ more) j := by
  obtain ⟨hleaf, hsymbol, hleft, hright, hweight⟩ := h
  unfold ArenaInternal arenaWeight
  rw [arenaAt_append_left _ _ hj, arenaAt_append_left _ _ (Nat.lt_trans hleft hj),
    arenaAt_append_left _ _ (Nat.lt_trans hright hj)]
  exact ⟨hleaf, hsymbol, hleft, hright, hweight⟩

/-- A merged node is internal: its children precede it and its weight is their exact sum, when that fits in
40 bits. -/
theorem arenaInternal_mergeNode {arena : List Node} {a b : Nat} (ha : a < arena.length)
    (hb : b < arena.length) (hsize : arena.length < 512)
    (hweight : arenaWeight arena a + arenaWeight arena b < 2 ^ 40) :
    ArenaInternal (arena ++ [mergeNode arena a b]) arena.length ∧
      arenaWeight (arena ++ [mergeNode arena a b]) arena.length =
        arenaWeight arena a + arenaWeight arena b := by
  have hl : (mergeNode arena a b).left.toNat = a := by simp [mergeNode]; omega
  have hr : (mergeNode arena a b).right.toNat = b := by simp [mergeNode]; omega
  have hw : (mergeNode arena a b).weight.toNat = arenaWeight arena a + arenaWeight arena b := by
    unfold mergeNode arenaWeight at *
    rw [BitVec.toNat_add, Nat.mod_eq_of_lt hweight]
  unfold ArenaInternal arenaWeight at *
  rw [arenaAt_append_self, hl, hr, arenaAt_append_left _ _ ha, arenaAt_append_left _ _ hb]
  exact ⟨⟨rfl, rfl, ha, hb, hw⟩, hw⟩

section
variable {leaves arena : List Node} {forest : List Nat} (inv : ForestInv leaves arena forest)
include inv

theorem ForestInv.lt_of_mem {i : Nat} (h : i ∈ forest) : i < arena.length :=
  List.mem_range.1 (inv.nodes.subset (List.mem_append_left _ h))

theorem ForestInv.length_forest : forest.length + 2 * (arena.length - leaves.length) = arena.length := by
  simpa [length_arenaChildren] using inv.nodes.length_eq

/-- A merge keeps the invariant, adds one arena entry and takes one element off the forest. -/
theorem ForestInv.of_mergeOnce (hsize : 2 * leaves.length ≤ 512)
    (htotal : (leaves.map (·.weight.toNat)).sum < 2 ^ 40) (h2 : 2 ≤ forest.length) :
    ForestInv leaves (mergeOnce arena forest).1 (mergeOnce arena forest).2 ∧
      (mergeOnce arena forest).1.length = arena.length + 1 ∧
      (mergeOnce arena forest).2.length = forest.length - 1 := by
  obtain ⟨a, b, rest, -, -, hperm, heq⟩ := mergeOnce_eq arena h2
  have hn : leaves.length ≤ arena.length := inv.leavesFirst.length_le
  have hcount := inv.length_forest
  have hlen : forest.length = rest.length + 2 := hperm.length_eq
  have hmem : ∀ i ∈ a :: b :: rest, i < arena.length := fun i hi =>
    inv.lt_of_mem (hperm.symm.subset hi)
  have ha : a < arena.length := hmem a (by simp)
  have hb : b < arena.length := hmem b (by simp)
  have hsum : arenaWeight arena a + (arenaWeight arena b + (rest.map (arenaWeight arena)).sum) =
      (leaves.map (·.weight.toNat)).sum := by
    rw [← inv.weight, (hperm.map (arenaWeight arena)).sum_nat]
    simp
  obtain ⟨hnew, hnewWeight⟩ := arenaInternal_mergeNode ha hb (by omega)
    (show arenaWeight arena a + arenaWeight arena b < 2 ^ 40 by omega)
  rw [heq]
  refine ⟨⟨?_, ?_, ?_, ?_⟩, by simp, by simp; omega⟩
  · exact inv.leavesFirst.trans (List.prefix_append _ _)
  · intro j hj hlt
    rcases Nat.lt_succ_iff_lt_or_eq.1 (by simpa using hlt) with hlt | rfl
    · exact (inv.internal j hj hlt).append hlt _
    · exact hnew
  · rw [arenaChildren_mergeNode hn (by omega) (by omega), List.length_append, List.length_singleton,
      List.range_succ]
    have hmoved : ((rest ++ [arena.length]) ++ (arenaChildren arena leaves.length ++ [a, b])).Perm
        (((a :: b :: rest) ++ arenaChildren arena leaves.length) ++ [arena.length]) := by
      refine List.perm_iff_count.2 fun i => ?_
      simp only [List.count_append, List.count_cons, List.count_nil]
      omega
    exact hmoved.trans (((hperm.symm.append_right _).trans inv.nodes).append_right _)
  · have hold : rest.map (arenaWeight (arena ++ [mergeNode arena a b])) = rest.map (arenaWeight arena) :=
      List.map_congr_left fun i hi => by
        unfold arenaWeight
        rw [arenaAt_append_left _ _ (hmem i (by simp [hi]))]
    rw [List.map_append, hold, List.sum_append, ← hsum]
    simp only [List.map_cons, List.map_nil, List.sum_cons, List.sum_nil, hnewWeight]
    omega

end

/-- A number of merges less than the forest's elements keeps the invariant. -/
theorem ForestInv.of_mergeMany {leaves : List Node} (hsize : 2 * leaves.length ≤ 512)
    (htotal : (leaves.map (·.weight.toNat)).sum < 2 ^ 40) {k : Nat} {st : List Node × List Nat}
    (inv : ForestInv leaves st.1 st.2) (hk : k < st.2.length) :
    ForestInv leaves (mergeMany k st).1 (mergeMany k st).2 ∧
      (mergeMany k st).1.length = st.1.length + k ∧ (mergeMany k st).2.length = st.2.length - k := by
  induction k generalizing st with
  | zero => exact ⟨inv, rfl, rfl⟩
  | succ k ih =>
    obtain ⟨inv', harena, hforest⟩ := inv.of_mergeOnce hsize htotal (by omega)
    obtain ⟨inv'', harena', hforest'⟩ := ih inv' (by omega)
    exact ⟨inv'', by rw [mergeMany, harena', harena]; omega, by rw [mergeMany, hforest', hforest]; omega⟩

/-- BUILD starts with every leaf in the forest. -/
theorem forestInv_leaves (leaves : List Node) : ForestInv leaves leaves (List.range leaves.length) where
  leavesFirst := List.prefix_refl _
  internal j h1 h2 := absurd h2 (by omega)
  nodes := by
    rw [arenaChildren, List.drop_of_length_le (by simp), List.flatMap_nil, List.append_nil]
  weight := by
    congr 1
    apply List.ext_getElem
    · simp
    · intro i h1 h2
      simp at h1
      simp [arenaWeight, arenaAt, h1]

/-- When one element is left in the forest it is the last arena entry: every other is a child. -/
theorem ForestInv.root_eq {leaves arena : List Node} {r : Nat} (inv : ForestInv leaves arena [r]) :
    r = arena.length - 1 := by
  have hr := inv.lt_of_mem (List.mem_singleton.2 rfl)
  have hlast : arena.length - 1 ∈ [r] ++ arenaChildren arena leaves.length :=
    inv.nodes.symm.subset (List.mem_range.2 (by omega))
  rcases List.mem_append.1 hlast with h | h
  · exact (List.mem_singleton.1 h).symm
  · obtain ⟨j, hj, hchild⟩ := List.mem_flatMap.1 h
    obtain ⟨hge, hlt⟩ := mem_drop_range.1 hj
    obtain ⟨-, -, hleft, hright, -⟩ := inv.internal j hge hlt
    simp only [List.mem_cons, List.not_mem_nil, or_false] at hchild
    omega

/-- The merges end with one element in the forest, the last of 2n − 1 arena entries (R133). -/
theorem forestInv_merged {leaves : List Node} (hpos : 0 < leaves.length) (hsize : 2 * leaves.length ≤ 512)
    (htotal : (leaves.map (·.weight.toNat)).sum < 2 ^ 40) :
    ForestInv leaves (mergeMany (leaves.length - 1) (leaves, List.range leaves.length)).1
        [2 * leaves.length - 2] ∧
      (mergeMany (leaves.length - 1) (leaves, List.range leaves.length)).1.length =
        2 * leaves.length - 1 := by
  have hlen : (List.range leaves.length).length = leaves.length := List.length_range
  obtain ⟨inv, harena, hforest⟩ := ForestInv.of_mergeMany hsize htotal (k := leaves.length - 1)
    (st := (leaves, List.range leaves.length)) (forestInv_leaves leaves) (by dsimp only; omega)
  dsimp only at harena hforest
  obtain ⟨r, hr⟩ := List.length_eq_one_iff.1 (hforest.trans (by omega))
  rw [hr] at inv
  have hroot := inv.root_eq
  rw [show 2 * leaves.length - 2 = r by omega]
  exact ⟨inv, by omega⟩

/-! ## The leaves -/

theorem pairwise_symbols : symbols.Pairwise (fun x y => x.toNat < y.toNat) := by
  refine List.pairwise_map.2 ?_
  refine List.Pairwise.imp_of_mem ?_ (List.pairwise_lt_range (n := 256))
  intro i j hi hj hij
  have := List.mem_range.1 hi
  have := List.mem_range.1 hj
  simp only [BitVec.toNat_ofNat]
  omega

/-- The leaf set ascends (R131). -/
theorem pairwise_leafSet (weight : Vector Word 256) :
    (leafSet weight).Pairwise (fun x y => x.toNat < y.toNat) :=
  pairwise_symbols.filter _

theorem length_symbols : symbols.length = 256 := by simp [symbols]

theorem length_leafSet_le (weight : Vector Word 256) : (leafSet weight).length ≤ 256 := by
  rw [← length_symbols]
  exact List.length_filter_le _ _

theorem sum_le_length_mul {l : List Nat} {b : Nat} (h : ∀ w ∈ l, w ≤ b) : l.sum ≤ l.length * b := by
  induction l with
  | nil => exact Nat.zero_le _
  | cons w l ih =>
    have hw := h w List.mem_cons_self
    have hl := ih fun v hv => h v (List.mem_cons_of_mem w hv)
    rw [List.sum_cons, List.length_cons, Nat.succ_mul]
    omega

/-- The weights of at most 256 leaves add up in 40 bits (R133). -/
theorem sum_leafNode_lt (weight : Vector Word 256) :
    (((leafSet weight).map (leafNode weight)).map (·.weight.toNat)).sum < 2 ^ 40 := by
  have hle : ∀ w ∈ ((leafSet weight).map (leafNode weight)).map (·.weight.toNat), w ≤ 2 ^ 32 - 1 := by
    intro w hw
    obtain ⟨n, hn, rfl⟩ := List.mem_map.1 hw
    obtain ⟨x, -, rfl⟩ := List.mem_map.1 hn
    have := (tableGet weight x).isLt
    simp only [leafNode, BitVec.toNat_setWidth]
    omega
  have hsum := sum_le_length_mul hle
  have := length_leafSet_le weight
  simp only [List.length_map] at hsum
  omega

/-- The arena BUILD makes: 2n − 1 entries, and the root at 2n − 2 (R133). -/
theorem forestInv_buildArena {weight : Vector Word 256} (h2 : 2 ≤ (leafSet weight).length) :
    ForestInv ((leafSet weight).map (leafNode weight)) (buildArena weight)
        [2 * (leafSet weight).length - 2] ∧
      (buildArena weight).length = 2 * (leafSet weight).length - 1 := by
  have hle := length_leafSet_le weight
  have hlen : ((leafSet weight).map (leafNode weight)).length = (leafSet weight).length := List.length_map _
  rw [← hlen]
  exact forestInv_merged (by omega) (by omega) (sum_leafNode_lt weight)

/-- Entry i of BUILD's arena, for i below n, is the leaf of the i-th symbol of the leaf set (R131). -/
theorem arenaAt_buildArena_leaf {weight : Vector Word 256} (h2 : 2 ≤ (leafSet weight).length) {i : Nat}
    (h : i < (leafSet weight).length) :
    arenaAt (buildArena weight) i = leafNode weight (leafSet weight)[i] := by
  obtain ⟨more, hmore⟩ := (forestInv_buildArena h2).1.leavesFirst
  rw [← hmore, arenaAt_append_left _ _ (by simpa using h)]
  simp [arenaAt, h]

/-! ## The node table -/

/-- A state whose node table holds an arena of n leaves with one element left in its forest has a tree. -/
theorem hasTree_of_forestInv {s : State} {leaves arena : List Node} {r : Nat}
    (inv : ForestInv leaves arena [r]) (h2 : 2 ≤ leaves.length) (h256 : leaves.length ≤ 256)
    (hleaf : ∀ i, i < leaves.length → (arenaAt arena i).leaf = true ∧ (arenaAt arena i).left = 0#9 ∧
      (arenaAt arena i).right = 0#9)
    (hasc : ∀ i, i < leaves.length → 0 < i →
      (arenaAt arena (i - 1)).symbol.toNat < (arenaAt arena i).symbol.toNat)
    (hvalid : s.treeValid = true) (hnode : ∀ i, s.nodeAt i = arenaAt arena i)
    (hlc : s.leafCount.toNat = leaves.length) (hnc : s.nodeCount.toNat = arena.length)
    (hroot : s.root.toNat = r) : HasTree s := by
  have hn : leaves.length ≤ arena.length := inv.leavesFirst.length_le
  have hlen := inv.length_forest
  have hlast := inv.root_eq
  have hchild : s.childList = arenaChildren arena leaves.length := by
    simp only [State.childList, arenaChildren, hnode, hlc, hnc]
  simp only [List.length_singleton] at hlen
  simp only [HasTree, State.leafAt, State.internalAt, hnode, hlc, hnc, hroot, hchild]
  refine ⟨hvalid, h2, h256, by omega, by omega, hleaf, hasc, ?_, ?_, ?_⟩
  · exact fun j hj hge => inv.internal j hge hj
  · intro i hi
    have hcount := inv.nodes.count_eq i
    rw [List.count_append, List.count_eq_zero_of_not_mem (by simp; omega), Nat.zero_add,
      List.nodup_range.count, if_pos (List.mem_range.2 (by omega))] at hcount
    exact hcount
  · intro i _ hi
    simp [arenaAt, hi]

/-- BUILD leaves a tree (R133, R135). -/
theorem hasTree_buildStaged {s : State} (h2 : 2 ≤ (leafSet s.weight).length) : HasTree (buildStaged s) := by
  have hle := length_leafSet_le s.weight
  obtain ⟨inv, hsize⟩ := forestInv_buildArena h2
  refine hasTree_of_forestInv inv (by simpa using h2) (by simpa using hle) ?_ ?_ rfl
    (nodeAt_nodeTable (by omega) rfl) ?_ ?_ ?_
  · intro i hi
    rw [arenaAt_buildArena_leaf h2 (by simpa using hi)]
    exact ⟨rfl, rfl, rfl⟩
  · intro i hi hpos
    have hi : i < (leafSet s.weight).length := by simpa using hi
    rw [arenaAt_buildArena_leaf h2 hi, arenaAt_buildArena_leaf h2 (by omega : i - 1 < _)]
    exact List.pairwise_iff_getElem.1 (pairwise_leafSet s.weight) (i - 1) i (by omega) hi (by omega)
  · simp [buildStaged]
    omega
  · rw [hsize]
    simp [buildStaged]
    omega
  · simp [buildStaged]
    omega

/-! ## The invariant of the node arena -/

theorem treeInv_congr {s t : State} (h : TreeInv s) (same : SameTree s t) : TreeInv t := by
  obtain ⟨hnode, hlc, hnc, hroot, hvalid⟩ := same
  have hnodeAt : t.nodeAt = s.nodeAt := by unfold State.nodeAt; rw [hnode]
  simpa only [TreeInv, NoTree, HasTree, State.leafAt, State.internalAt, State.childList, hnodeAt, hlc, hnc,
    hroot, hvalid] using h

/-- The arena of R41. -/
theorem noTree_of_reset {s : State} (hvalid : s.treeValid = false) (hlc : s.leafCount = 0#32)
    (hnc : s.nodeCount = 0#32) (hroot : s.root = 0#32) (hnode : s.node = Vector.replicate 511 Node.empty) :
    NoTree s := by
  refine ⟨hvalid, hlc, hnc, hroot, fun i hi => ?_⟩
  simp [State.nodeAt, hnode, hi]

theorem Staged.treeInv {i : Instr} {s u : State} (h : Staged s i u) (hs : TreeInv s) : TreeInv u := by
  cases h with
  | build two => exact .inr (hasTree_buildStaged two)
  | sreset => exact .inl (noTree_of_reset rfl rfl rfl rfl rfl)
  | gen tree => exact treeInv_congr hs ((Staged.gen tree).tree (by simp) (by simp))
  | _ => exact hs

theorem treeInv_stepClosed : StepClosed TreeInv where
  inputs _ _ h := h
  respond _ _ _ h := h
  writeReg s v r h _ :=
    have ⟨hnode, hlc, hnc, hroot, hvalid, _⟩ := writeReg_tables s v r
    treeInv_congr h ⟨hnode, hlc, hnc, hroot, hvalid⟩
  bufWrite _ _ _ h _ := h
  commit _ _ _ h hu := hu.treeInv h
  raise _ _ _ h _ _ := h
  hardReset _ _ := .inl (noTree_of_reset rfl rfl rfl rfl rfl)

/-- Settles O54: BUILD makes a tree by the invariant of its merges, the resets empty the arena, and nothing
else writes it. -/
theorem stepKeepsTreeInv : Obligations.StepKeepsTreeInv :=
  fun _ _ hs h => treeInv_stepClosed.step hs h

end Sys2Proof.Machine
end

section
/-! PROOFS. The walk of a tree: paths from the root name the leaves they reach (R37, R150), and the codes of
the walk lie left to right (R151). -/

namespace Sys2Proof.Machine

/-! ## Codes left of one another -/

theorem leftOf_append {c d : Bits} (h : leftOf c d) (e f : Bits) : leftOf (c ++ e) (d ++ f) := by
  obtain ⟨p, c', d', rfl, rfl⟩ := h
  exact ⟨p, c' ++ e, d' ++ f, by simp, by simp⟩

/-- The two ways to go on from a code: left, and right of it. -/
theorem leftOf_branch (c : Bits) : leftOf (c ++ [false]) (c ++ [true]) := ⟨c, [], [], rfl, rfl⟩

/-- Of two codes that part, neither begins with the other. -/
theorem leftOf_not_prefix {c d : Bits} (h : leftOf c d) : ¬ c <+: d ∧ ¬ d <+: c := by
  obtain ⟨p, c', d', rfl, rfl⟩ := h
  simp [List.prefix_append_right_inj, List.cons_prefix_cons]

/-! ## Paths -/

/-- Two elements of a pairwise related list are related, in one order or the other. -/
theorem forall_of_pairwise {α : Type} {R : α → α → Prop} {l : List α} (h : l.Pairwise R) {x y : α}
    (hx : x ∈ l) (hy : y ∈ l) (hne : x ≠ y) : R x y ∨ R y x := by
  induction h with
  | nil => cases hx
  | cons hhead _ ih =>
    rcases List.mem_cons.1 hx with rfl | hxl
    · rcases List.mem_cons.1 hy with rfl | hyl
      · exact absurd rfl hne
      · exact .inl (hhead y hyl)
    · rcases List.mem_cons.1 hy with rfl | hyl
      · exact .inr (hhead x hxl)
      · exact ih hxl hyl

/-- The child of entry p on the bit b (R150). -/
def State.childAt (s : State) (p : Nat) (b : Bool) : Nat :=
  if b then (s.nodeAt p).right.toNat else (s.nodeAt p).left.toNat

/-- A path is empty, or a shorter one and one more bit. -/
theorem eq_nil_or_append (c : Bits) : c = [] ∨ ∃ d b, c = d ++ [b] := by
  simpa only [List.concat_eq_append] using c.eq_nil_or_concat

/-- Induction on a path from its end. -/
theorem path_induction {motive : Bits → Prop} (nil : motive [])
    (append : ∀ c b, motive c → motive (c ++ [b])) (c : Bits) : motive c := by
  have hreverse : ∀ d : Bits, motive d.reverse := by
    intro d
    induction d with
    | nil => exact nil
    | cons b d ih =>
      rw [List.reverse_cons]
      exact append _ b ih
  simpa only [List.reverse_reverse] using hreverse c.reverse

/-- A path with one more bit goes on from an entry that is no leaf to its child. -/
theorem follow_concat {s : State} {i j : Nat} {c : Bits} {b : Bool} :
    s.follow i (c ++ [b]) = some j ↔
      ∃ p, s.follow i c = some p ∧ (s.nodeAt p).leaf = false ∧ s.childAt p b = j := by
  induction c generalizing i with
  | nil =>
    simp only [List.nil_append, State.follow, Option.some.injEq, exists_eq_left', State.childAt]
    cases (s.nodeAt i).leaf <;> simp
  | cons a c ih =>
    simp only [List.cons_append, State.follow]
    cases hleaf : (s.nodeAt i).leaf with
    | true => simp
    | false => simpa only [Bool.false_eq_true, if_false] using ih

section
variable {s : State} (tree : HasTree s)
include tree

/-- An entry of a tree that is no leaf is internal (R37). -/
theorem internalAt_of_not_leaf {p : Nat} (hp : p < s.nodeCount.toNat) (hleaf : (s.nodeAt p).leaf = false) :
    s.leafCount.toNat ≤ p ∧ s.internalAt p := by
  obtain ⟨-, -, -, -, -, leaves, -, internal, -⟩ := tree
  have hge : s.leafCount.toNat ≤ p := by
    refine Nat.le_of_not_lt fun hlt => ?_
    rw [(leaves p hlt).1] at hleaf
    cases hleaf
  exact ⟨hge, internal p hp hge⟩

/-- A leaf of a tree is one of its first n entries (R37). -/
theorem lt_leafCount_of_leaf {p : Nat} (hp : p < s.nodeCount.toNat) (hleaf : (s.nodeAt p).leaf = true) :
    p < s.leafCount.toNat := by
  obtain ⟨-, -, -, -, -, -, -, internal, -⟩ := tree
  refine Nat.lt_of_not_le fun hge => ?_
  rw [(internal p hp hge).1] at hleaf
  cases hleaf

theorem childAt_lt {p : Nat} (hp : p < s.nodeCount.toNat) (hleaf : (s.nodeAt p).leaf = false) (b : Bool) :
    s.childAt p b < p := by
  obtain ⟨-, -, -, hleft, hright, -⟩ := internalAt_of_not_leaf tree hp hleaf
  cases b
  · exact hleft
  · exact hright

/-- Indices fall along a path from the root, by one or more a bit (R37 item 3). -/
theorem length_add_le_root {c : Bits} {j : Nat} (h : s.follow s.root.toNat c = some j) :
    c.length + j ≤ s.root.toNat := by
  obtain ⟨-, -, -, hcount, hroot, -⟩ := id tree
  induction c using path_induction generalizing j with
  | nil =>
    simp only [State.follow, Option.some.injEq] at h
    simp [h]
  | append c b ih =>
    obtain ⟨p, hp, hleaf, rfl⟩ := follow_concat.1 h
    have hpath := ih hp
    have hchild := childAt_lt tree (by omega) hleaf b
    rw [List.length_append, List.length_singleton]
    omega

theorem lt_nodeCount_of_follow {c : Bits} {j : Nat} (h : s.follow s.root.toNat c = some j) :
    j < s.nodeCount.toNat := by
  have hpath := length_add_le_root tree h
  obtain ⟨-, h2, -, hcount, hroot, -⟩ := tree
  omega

/-- Every node but the root is the child of one entry only (R37 item 1). -/
theorem nodup_childList : s.childList.Nodup := by
  obtain ⟨-, -, -, hcount, hroot, -, -, internal, once, -⟩ := id tree
  refine List.nodup_iff_count.2 fun i => ?_
  by_cases hi : i < s.root.toNat
  · exact Nat.le_of_eq (once i hi)
  · have hnone : i ∉ s.childList := by
      intro hmem
      obtain ⟨j, hj, hchild⟩ := List.mem_flatMap.1 hmem
      obtain ⟨hge, hlt⟩ := mem_drop_range.1 hj
      obtain ⟨-, -, hleft, hright, -⟩ := internal j hlt hge
      simp only [List.mem_cons, List.not_mem_nil, or_false] at hchild
      omega
    rw [List.count_eq_zero_of_not_mem hnone]
    exact Nat.zero_le 1

omit tree in
theorem childAt_mem (p : Nat) (b : Bool) :
    s.childAt p b ∈ [(s.nodeAt p).left.toNat, (s.nodeAt p).right.toNat] := by
  cases b <;> simp [State.childAt]

/-- Two internal nodes have no child in common, and the two children of one differ (R37 item 1). -/
theorem childAt_injective {p q : Nat} {a b : Bool} (hp : p < s.nodeCount.toNat)
    (hq : q < s.nodeCount.toNat) (hpl : (s.nodeAt p).leaf = false) (hql : (s.nodeAt q).leaf = false)
    (h : s.childAt p a = s.childAt q b) : p = q ∧ a = b := by
  obtain ⟨heach, hpair⟩ := List.pairwise_flatMap.1 (nodup_childList tree)
  have hpmem := mem_drop_range.2 ⟨(internalAt_of_not_leaf tree hp hpl).1, hp⟩
  have hqmem := mem_drop_range.2 ⟨(internalAt_of_not_leaf tree hq hql).1, hq⟩
  have hpq : p = q := by
    refine Decidable.byContradiction fun hne => ?_
    rcases forall_of_pairwise hpair hpmem hqmem hne with hdisjoint | hdisjoint
    · exact hdisjoint _ (childAt_mem p a) _ (childAt_mem q b) h
    · exact hdisjoint _ (childAt_mem q b) _ (childAt_mem p a) h.symm
  subst hpq
  have hlr : (s.nodeAt p).left.toNat ≠ (s.nodeAt p).right.toNat := by
    simpa using heach p hpmem
  refine ⟨rfl, ?_⟩
  cases a with
  | false => cases b with
    | false => rfl
    | true => exact absurd h hlr
  | true => cases b with
    | false => exact absurd h.symm hlr
    | true => rfl

/-- A node of a tree is reached from the root along one path only (R37). -/
theorem follow_root_injective {c d : Bits} {j : Nat} (hc : s.follow s.root.toNat c = some j)
    (hd : s.follow s.root.toNat d = some j) : c = d := by
  induction c using path_induction generalizing d j with
  | nil =>
    have hj : s.root.toNat = j := by simpa [State.follow] using hc
    have hlen := length_add_le_root tree hd
    exact (List.length_eq_zero_iff.1 (by omega)).symm
  | append c a ih =>
    have hlen := length_add_le_root tree hc
    rw [List.length_append, List.length_singleton] at hlen
    obtain ⟨p, hp, hpl, hpj⟩ := follow_concat.1 hc
    obtain rfl | ⟨d, b, rfl⟩ := eq_nil_or_append d
    · have hj : s.root.toNat = j := by simpa [State.follow] using hd
      omega
    · obtain ⟨q, hq, hql, hqj⟩ := follow_concat.1 hd
      obtain ⟨rfl, rfl⟩ := childAt_injective tree (lt_nodeCount_of_follow tree hp)
        (lt_nodeCount_of_follow tree hq) hpl hql (hpj.trans hqj.symm)
      rw [ih hp hq]

/-- The leaves of a tree stand in ascending symbol order (R37 item 2). -/
theorem leafSymbol_lt {i k : Nat} (hik : i < k) (hk : k < s.leafCount.toNat) :
    (s.nodeAt i).symbol.toNat < (s.nodeAt k).symbol.toNat := by
  obtain ⟨-, -, -, -, -, -, ascending, -⟩ := tree
  induction k with
  | zero => omega
  | succ k ih =>
    have hnext := ascending (k + 1) hk (Nat.succ_pos k)
    rw [Nat.add_sub_cancel] at hnext
    rcases Nat.lt_succ_iff_lt_or_eq.1 hik with hlt | rfl
    · exact Nat.lt_trans (ih hlt (by omega)) hnext
    · exact hnext

theorem leafSymbol_injective {i k : Nat} (hi : i < s.leafCount.toNat) (hk : k < s.leafCount.toNat)
    (h : (s.nodeAt i).symbol = (s.nodeAt k).symbol) : i = k := by
  rcases Nat.lt_trichotomy i k with hlt | heq | hlt
  · exact absurd (congrArg BitVec.toNat h) (Nat.ne_of_lt (leafSymbol_lt tree hlt hk))
  · exact heq
  · exact absurd (congrArg BitVec.toNat h) (Nat.ne_of_gt (leafSymbol_lt tree hlt hi))

end

/-- The code c leads from the root of the tree to the leaf of the symbol x (R150). -/
def State.LeafPath (s : State) (x : Byte) (c : Bits) : Prop :=
  ∃ j, s.follow s.root.toNat c = some j ∧ (s.nodeAt j).leaf = true ∧ (s.nodeAt j).symbol = x

section
variable {s : State} (tree : HasTree s)
include tree

/-- A symbol has one path (R150). -/
theorem leafPath_unique {x : Byte} {c d : Bits} (hc : s.LeafPath x c) (hd : s.LeafPath x d) : c = d := by
  obtain ⟨i, hi, hil, hix⟩ := hc
  obtain ⟨k, hk, hkl, hkx⟩ := hd
  have heq := leafSymbol_injective tree (lt_leafCount_of_leaf tree (lt_nodeCount_of_follow tree hi) hil)
    (lt_leafCount_of_leaf tree (lt_nodeCount_of_follow tree hk) hkl) (hix.trans hkx.symm)
  rw [← heq] at hk
  exact follow_root_injective tree hi hk

/-- A path to a leaf has 1 to n − 1 bits, and n is at most 256 (R135, R150). -/
theorem leafPath_length {x : Byte} {c : Bits} (hc : s.LeafPath x c) :
    1 ≤ c.length ∧ c.length + 1 ≤ s.leafCount.toNat ∧ c.length ≤ 255 := by
  obtain ⟨j, hj, hleaf, -⟩ := hc
  have hlt := lt_leafCount_of_leaf tree (lt_nodeCount_of_follow tree hj) hleaf
  obtain ⟨-, h2, h256, -, hroot, -⟩ := id tree
  obtain rfl | ⟨c, b, rfl⟩ := eq_nil_or_append c
  · have : s.root.toNat = j := by simpa [State.follow] using hj
    omega
  · obtain ⟨p, hp, hpl, -⟩ := follow_concat.1 hj
    have hpath := length_add_le_root tree hp
    have hge := (internalAt_of_not_leaf tree (lt_nodeCount_of_follow tree hp) hpl).1
    rw [List.length_append, List.length_singleton]
    omega

end

/-! ## The walk -/

/-- A walk meets only leaves reached from its stack, with the codes that lead there (R150). -/
theorem walk_sound {s : State} {fuel : Nat} {stack : List (Nat × Bits)} {x : Byte} {c : Bits}
    (h : (x, c) ∈ walk s fuel stack) :
    ∃ i d e j, (i, d) ∈ stack ∧ c = d ++ e ∧ s.follow i e = some j ∧ (s.nodeAt j).leaf = true ∧
      (s.nodeAt j).symbol = x := by
  induction fuel generalizing stack with
  | zero => simp [walk] at h
  | succ fuel ih =>
    match stack with
    | [] => simp [walk] at h
    | (i, d) :: stack =>
      simp only [walk] at h
      split at h
      · rename_i hleaf
        rcases List.mem_cons.1 h with h | h
        · cases h
          exact ⟨i, c, [], i, by simp, by simp, rfl, hleaf, rfl⟩
        · obtain ⟨k, d', e, j, hmem, hrest⟩ := ih h
          exact ⟨k, d', e, j, List.mem_cons_of_mem _ hmem, hrest⟩
      · rename_i hleaf
        obtain ⟨k, d', e, j, hmem, rfl, hfollow, hrest⟩ := ih h
        simp only [List.mem_cons] at hmem
        rcases hmem with hmem | hmem | hmem
        · cases hmem
          exact ⟨i, d, false :: e, j, by simp, by simp, by simpa [State.follow, hleaf] using hfollow, hrest⟩
        · cases hmem
          exact ⟨i, d, true :: e, j, by simp, by simp, by simpa [State.follow, hleaf] using hfollow, hrest⟩
        · exact ⟨k, d', e, j, List.mem_cons_of_mem _ hmem, rfl, hfollow, hrest⟩

/-- A walk from a stack whose codes lie left to right meets the leaves left to right (R151). -/
theorem walk_pairwise_leftOf {s : State} {fuel : Nat} {stack : List (Nat × Bits)}
    (h : stack.Pairwise (fun a b => leftOf a.2 b.2)) :
    (walk s fuel stack).Pairwise (fun a b => leftOf a.2 b.2) := by
  induction fuel generalizing stack with
  | zero => exact List.Pairwise.nil
  | succ fuel ih =>
    match stack with
    | [] => exact List.Pairwise.nil
    | (i, c) :: stack =>
      obtain ⟨hhead, htail⟩ := List.pairwise_cons.1 h
      simp only [walk]
      split
      · refine List.pairwise_cons.2 ⟨fun a ha => ?_, ih htail⟩
        obtain ⟨k, d, e, j, hmem, hcode, -⟩ := walk_sound (x := a.1) (c := a.2) ha
        rw [hcode]
        simpa using leftOf_append (hhead _ hmem) [] e
      · refine ih (List.pairwise_cons.2 ⟨?_, List.pairwise_cons.2 ⟨?_, htail⟩⟩)
        · intro a ha
          rcases List.mem_cons.1 ha with rfl | ha
          · exact leftOf_branch c
          · simpa using leftOf_append (hhead a ha) [false] []
        · intro a ha
          simpa using leftOf_append (hhead a ha) [true] []

/-- GEN's entries are leaves with their paths (R150). -/
theorem leafPath_of_mem_genEntries {s : State} {e : Byte × Bits} (h : e ∈ genEntries s) :
    s.LeafPath e.1 e.2 := by
  obtain ⟨i, d, c, j, hmem, hcode, hfollow, hrest⟩ := walk_sound (x := e.1) (c := e.2) h
  cases List.mem_singleton.1 hmem
  rw [List.nil_append] at hcode
  exact ⟨j, hcode ▸ hfollow, hrest⟩

theorem genEntries_pairwise_leftOf (s : State) :
    (genEntries s).Pairwise (fun a b => leftOf a.2 b.2) :=
  walk_pairwise_leftOf (List.pairwise_singleton _ _)

end Sys2Proof.Machine
end

section
/-! PROOFS. The dictionary: an entry that conflicts with none keeps its counts, its order and its codes in line
(R35, R36, R154), GEN adds only such entries (R150), and no step undoes it. -/

namespace Sys2Proof.Machine

/-! ## The dictionary's invariant and its fields -/

theorem dictInv_congr {s t : State} (h : DictInv s) (same : SameDictionary s t) : DictInv t := by
  obtain ⟨hlen, hbits, horder, hcount⟩ := same
  have hentry : t.hasEntry = s.hasEntry := by unfold State.hasEntry; rw [hlen]
  have hcode : t.code = s.code := by unfold State.code; rw [hlen, hbits]
  have hsymbols : t.dictSymbols = s.dictSymbols := by unfold State.dictSymbols; rw [horder, hcount]
  simpa only [DictInv, State.prefixFree, hentry, hcode, hsymbols, hbits, horder, hcount] using h

theorem alignLeft_nil (n : Nat) : alignLeft n [] = 0#n := by
  have hbits : ∀ k, bitsValue (zeros k) = 0 := by
    intro k
    refine Nat.eq_of_testBit_eq fun i => ?_
    simp only [testBit_bitsValue, zeros, List.reverse_replicate, List.getD_eq_getElem?_getD,
      List.getElem?_replicate, Nat.zero_testBit]
    split <;> rfl
  rw [alignLeft, List.nil_append, List.take_of_length_le (by simp), hbits]

/-- The empty dictionary of R41 and R153. -/
theorem dictInv_empty {s : State} (hlen : s.codeLen = Vector.replicate 256 0#8)
    (hbits : s.codeBits = Vector.replicate 256 0#256) (horder : s.dictOrder = Vector.replicate 256 0#8)
    (hcount : s.dictCount = 0#32) : DictInv s := by
  have hentry : ∀ x, s.hasEntry x = false := fun x => by simp [State.hasEntry, hlen]
  have hcode : ∀ x, s.code x = [] := fun x => by simp [State.code, hlen]
  have hsymbols : s.dictSymbols = [] := by simp [State.dictSymbols, hcount]
  refine ⟨?_, ?_, ?_, ?_, ?_, ?_⟩
  · rw [hcount, List.filter_eq_nil_iff.2 fun x _ => by simp [hentry]]
    rfl
  · simp [hsymbols]
  · simp [hsymbols, hentry]
  · intro x hx
    rw [horder, Vector.toList_replicate] at hx
    exact List.eq_of_mem_replicate (List.mem_of_mem_drop hx)
  · simp [State.prefixFree, hsymbols]
  · simp [hbits, hcode, alignLeft_nil]

theorem nodup_symbols : symbols.Nodup :=
  pairwise_symbols.imp fun h heq => absurd (congrArg BitVec.toNat heq) (Nat.ne_of_lt h)

section
variable {s : State} (h : DictInv s)
include h

theorem DictInv.hasEntry_iff (x : Byte) : s.hasEntry x = true ↔ x ∈ s.dictSymbols := by
  obtain ⟨-, -, listed, -⟩ := h
  exact listed x (mem_symbols x)

/-- While some symbol has no entry, DICT_COUNT is below 256 (R36 item 1). -/
theorem DictInv.dictCount_lt {x : Byte} (hx : s.hasEntry x = false) : s.dictCount.toNat < 256 := by
  obtain ⟨counted, -⟩ := h
  rw [counted, ← length_symbols]
  exact List.length_filter_lt_length_iff_exists.2 ⟨x, mem_symbols x, by simp [hx]⟩

end

/-- Items 1 and 2 of R36: a list of the symbols with an entry, each once, is as long as their number. -/
theorem length_filter_hasEntry {s : State} (nodup : s.dictSymbols.Nodup)
    (listed : ∀ x, s.hasEntry x = true ↔ x ∈ s.dictSymbols) :
    (symbols.filter s.hasEntry).length = s.dictSymbols.length := by
  refine List.Perm.length_eq ((List.perm_ext_iff_of_nodup (nodup_symbols.filter _) nodup).2 fun x => ?_)
  rw [List.mem_filter, listed]
  simp [mem_symbols]

/-! ## One entry added -/

theorem toNat_dictCount_addEntry {s : State} (h : s.dictCount.toNat < 256) (x : Byte) (c : Bits) :
    (s.addEntry x c).dictCount.toNat = s.dictCount.toNat + 1 := by
  rw [State.addEntry_dictCount, BitVec.toNat_add]
  simp
  omega

theorem dictOrder_addEntry_toList (s : State) (x : Byte) (c : Bits) :
    (s.addEntry x c).dictOrder.toList = s.dictOrder.toList.set s.dictCount.toNat x := by
  rw [State.addEntry_dictOrder, Vector.toList_setIfInBounds]

/-- The symbol added takes the last place in dictionary order (R154). -/
theorem dictSymbols_addEntry {s : State} (h : s.dictCount.toNat < 256) (x : Byte) (c : Bits) :
    (s.addEntry x c).dictSymbols = s.dictSymbols ++ [x] := by
  have hlt : s.dictCount.toNat < s.dictOrder.toList.length := by simpa using h
  unfold State.dictSymbols
  rw [toNat_dictCount_addEntry h, dictOrder_addEntry_toList, List.take_add_one,
    List.take_set_of_le (Nat.le_refl _), List.getElem?_set_self hlt]
  rfl

/-- The code c may be added for the symbol x: the guards of DADD (R154), for a code that fits an entry. -/
structure State.Addable (s : State) (x : Byte) (c : Bits) : Prop where
  nonempty : c ≠ []
  short : c.length < 256
  new : s.hasEntry x = false
  apart : ∀ y ∈ s.dictSymbols, ¬ s.code y <+: c ∧ ¬ c <+: s.code y

theorem prefixFree_addEntry {s : State} {x : Byte} {c : Bits} (h : DictInv s) (add : s.Addable x c) :
    (s.addEntry x c).prefixFree := by
  obtain ⟨-, -, -, -, free, -⟩ := id h
  have hold : ∀ y ∈ s.dictSymbols, (s.addEntry x c).code y = s.code y := by
    intro y hy
    rw [code_addEntry _ _ _ _ add.short, if_neg]
    rintro rfl
    have hentry := (h.hasEntry_iff y).2 hy
    rw [add.new] at hentry
    cases hentry
  have hnew : (s.addEntry x c).code x = c := by rw [code_addEntry _ _ _ _ add.short, if_pos rfl]
  intro y hy z hz hprefix
  rw [dictSymbols_addEntry (h.dictCount_lt add.new)] at hy hz
  rcases List.mem_append.1 hy with hy | hy <;> rcases List.mem_append.1 hz with hz | hz
  · rw [hold y hy, hold z hz] at hprefix
    exact free y hy z hz hprefix
  · cases List.mem_singleton.1 hz
    rw [hold y hy, hnew] at hprefix
    exact absurd hprefix (add.apart y hy).1
  · cases List.mem_singleton.1 hy
    rw [hnew, hold z hz] at hprefix
    exact absurd hprefix (add.apart z hz).2
  · exact (List.mem_singleton.1 hy).trans (List.mem_singleton.1 hz).symm

/-- An entry that conflicts with none keeps the dictionary's invariant (R36, R154). -/
theorem dictInv_addEntry {s : State} {x : Byte} {c : Bits} (h : DictInv s) (add : s.Addable x c) :
    DictInv (s.addEntry x c) := by
  obtain ⟨-, nodup, -, zero, -, aligned⟩ := id h
  have hlt := h.dictCount_lt add.new
  have hcount := toNat_dictCount_addEntry hlt x c
  have hsymbols := dictSymbols_addEntry hlt x c
  have hnotMem : x ∉ s.dictSymbols := by
    rw [← h.hasEntry_iff, add.new]
    simp
  have hnodup : (s.addEntry x c).dictSymbols.Nodup := by
    rw [hsymbols]
    refine List.nodup_append.2 ⟨nodup, List.pairwise_singleton _ x, fun y hy z hz heq => ?_⟩
    exact hnotMem (List.mem_singleton.1 hz ▸ heq ▸ hy)
  have hlisted : ∀ y, (s.addEntry x c).hasEntry y = true ↔ y ∈ (s.addEntry x c).dictSymbols := by
    intro y
    rw [hasEntry_addEntry _ _ _ _ add.short add.nonempty, hsymbols, List.mem_append, List.mem_singleton,
      ← h.hasEntry_iff y]
    by_cases hy : y = x <;> simp [hy]
  refine ⟨?_, hnodup, fun y _ => hlisted y, ?_, prefixFree_addEntry h add, ?_⟩
  · rw [length_filter_hasEntry hnodup hlisted, State.dictSymbols, List.length_take, hcount]
    simp
    omega
  · intro y hy
    rw [hcount, dictOrder_addEntry_toList, List.drop_set_of_lt (by omega)] at hy
    exact zero y (List.drop_subset_drop_left _ (Nat.le_succ _) hy)
  · intro y hy
    rw [State.addEntry_codeBits, tableGet_tableSet, code_addEntry _ _ _ _ add.short]
    split
    · rfl
    · exact aligned y hy

/-! ## DADD -/

/-- The staged code that DADD's checks let through may be added (R154). -/
theorem addable_stagedCode {s : State} {sym len : Byte} (hlen : len ≠ 0#8) (hnew : s.hasEntry sym = false)
    (hfree : firstConflict s (s.stagedCode len) = none) : s.Addable sym (s.stagedCode len) where
  nonempty hnil := by
    refine hlen (BitVec.eq_of_toNat_eq ?_)
    rw [← length_stagedCode s len, hnil]
    rfl
  short := by
    rw [length_stagedCode]
    exact len.isLt
  new := hnew
  apart y hy := by
    have := List.find?_eq_none.1 hfree y hy
    simpa [conflicts] using this

/-! ## GEN -/

/-- What may be added still may after another symbol's code that does not conflict with it. -/
theorem State.Addable.addEntry {s : State} {x y : Byte} {c d : Bits} (h : DictInv s) (addx : s.Addable x c)
    (addy : s.Addable y d) (hne : y ≠ x) (hapart : ¬ c <+: d ∧ ¬ d <+: c) :
    (s.addEntry x c).Addable y d where
  nonempty := addy.nonempty
  short := addy.short
  new := by rw [hasEntry_addEntry _ _ _ _ addx.short addx.nonempty, if_neg hne, addy.new]
  apart z hz := by
    rw [dictSymbols_addEntry (h.dictCount_lt addx.new), List.mem_append, List.mem_singleton] at hz
    rw [code_addEntry _ _ _ _ addx.short]
    split
    · exact hapart
    · rename_i hzx
      exact addy.apart z (hz.resolve_right hzx)

/-- Entries of different symbols with codes that do not conflict may be added one after the other. -/
theorem dictInv_addEntries {s : State} {es : List (Byte × Bits)} (h : DictInv s)
    (add : ∀ e ∈ es, s.Addable e.1 e.2)
    (pairwise : es.Pairwise (fun e f => f.1 ≠ e.1 ∧ ¬ e.2 <+: f.2 ∧ ¬ f.2 <+: e.2)) :
    DictInv (addEntries s es) := by
  induction es generalizing s with
  | nil => exact h
  | cons e es ih =>
    obtain ⟨hhead, htail⟩ := List.pairwise_cons.1 pairwise
    have adde := add e List.mem_cons_self
    refine ih (dictInv_addEntry h adde) (fun f hf => ?_) htail
    obtain ⟨hne, hapart⟩ := hhead f hf
    exact adde.addEntry h (add f (List.mem_cons_of_mem _ hf)) hne hapart

theorem dictInv_clearDictionary (s : State) : DictInv s.clearDictionary := dictInv_empty rfl rfl rfl rfl

/-- Any code that fits an entry may be added to the empty dictionary. -/
theorem addable_clearDictionary (s : State) {x : Byte} {c : Bits} (hpos : 1 ≤ c.length)
    (hshort : c.length ≤ 255) : s.clearDictionary.Addable x c where
  nonempty hnil := by simp [hnil] at hpos
  short := by omega
  new := by simp [State.hasEntry]
  apart y hy := by simp [State.dictSymbols] at hy

/-- The codes GEN reads off a tree make a dictionary: paths to different leaves part (R150, R152). -/
theorem dictInv_genStaged {s : State} (tree : HasTree s) : DictInv (genStaged s) := by
  refine dictInv_addEntries (dictInv_clearDictionary s) (fun e he => ?_) ?_
  · obtain ⟨hpos, -, hshort⟩ := leafPath_length tree (leafPath_of_mem_genEntries he)
    exact addable_clearDictionary s hpos hshort
  · refine (genEntries_pairwise_leftOf s).imp_of_mem fun {e f} he hf hleft =>
      ⟨fun heq => ?_, leftOf_not_prefix hleft⟩
    have hpath := leafPath_of_mem_genEntries hf
    rw [heq] at hpath
    have hcode := leafPath_unique tree (leafPath_of_mem_genEntries he) hpath
    exact (leftOf_not_prefix hleft).1 (hcode ▸ List.prefix_refl _)

/-! ## Steps -/

theorem Staged.dictInv {i : Instr} {s u : State} (h : Staged s i u) (tree : TreeInv s) (hs : DictInv s) :
    DictInv u := by
  cases h with
  | sreset => exact dictInv_empty rfl rfl rfl rfl
  | gen valid =>
    rcases tree with ⟨hnone, -⟩ | htree
    · rw [valid] at hnone
      cases hnone
    · exact dictInv_genStaged htree
  | dclear => exact dictInv_clearDictionary s
  | dadd sym len hlen hnew hfree => exact dictInv_addEntry hs (addable_stagedCode hlen hnew hfree)
  | _ => exact hs

theorem treeDictInv_stepClosed : StepClosed (fun s => TreeInv s ∧ DictInv s) where
  inputs _ _ h := h
  respond _ _ _ h := h
  writeReg s v r h hr :=
    have ⟨_, _, _, _, _, hlen, hbits, horder, hcount⟩ := writeReg_tables s v r
    ⟨treeInv_stepClosed.writeReg s v r h.1 hr, dictInv_congr h.2 ⟨hlen, hbits, horder, hcount⟩⟩
  bufWrite _ _ _ h _ := h
  commit _ _ _ h hu := ⟨hu.treeInv h.1, hu.dictInv h.1 h.2⟩
  raise _ _ _ h _ _ := h
  hardReset s h := ⟨treeInv_stepClosed.hardReset s h.1, dictInv_empty rfl rfl rfl rfl⟩

/-- Settles O55: DADD adds an entry only after its checks, and GEN's codes are the root paths of a tree. -/
theorem stepKeepsDictInv : Obligations.StepKeepsDictInv :=
  fun _ _ htree hdict h => (treeDictInv_stepClosed.step ⟨htree, hdict⟩ h).2

/-! ## Reset and reachable states -/

theorem treeInv_reset (k : Fin 7) (is : List Input) :
    TreeInv { State.reset with bufLog := k, inputs := is } :=
  .inl (noTree_of_reset rfl rfl rfl rfl rfl)

theorem dictInv_reset (k : Fin 7) (is : List Input) :
    DictInv { State.reset with bufLog := k, inputs := is } :=
  dictInv_empty rfl rfl rfl rfl

/-- Settles O56. -/
theorem resetMeetsInvariants : Obligations.ResetMeetsInvariants :=
  fun k is => ⟨⟨Memory.wf_nil, fun _ hc => absurd hc List.not_mem_nil⟩, errInv_clear rfl rfl rfl,
    engineInv_idle rfl, treeInv_reset k is, dictInv_reset k is⟩

theorem Reachable.treeDictInv {s : State} (h : Reachable s) : TreeInv s ∧ DictInv s :=
  treeDictInv_stepClosed.reachable (fun k is => ⟨treeInv_reset k is, dictInv_reset k is⟩) h

/-- Settles O57: DictInv holds of every reachable state. -/
theorem reachableDictionaryPrefixFree : Obligations.ReachableDictionaryPrefixFree := by
  intro s hs
  obtain ⟨-, hdict⟩ := hs.treeDictInv
  obtain ⟨counted, nodup, -, -, free, -⟩ := id hdict
  have hlisted : ∀ x, tableGet s.codeLen x ≠ 0#8 ↔ x ∈ s.dictSymbols := fun x => by
    rw [← hdict.hasEntry_iff, State.hasEntry, bne_iff_ne]
  refine ⟨counted, nodup, hlisted, ?_, ?_⟩
  · intro x y hx hy
    exact free x ((hlisted x).1 hx) y ((hlisted y).1 hy)
  · intro x hx
    have hlt := (tableGet s.codeLen x).isLt
    have hne : (tableGet s.codeLen x).toNat ≠ 0 := fun h0 => hx (BitVec.eq_of_toNat_eq h0)
    omega

/-- Settles O58: TreeInv holds of every reachable state, and a tree has at least three nodes. -/
theorem reachableArenaIsTree : Obligations.ReachableArenaIsTree := by
  intro s hs
  rcases hs.treeDictInv.1 with hnone | htree
  · obtain ⟨hvalid, -, hnc, -⟩ := id hnone
    exact ⟨by simp [hvalid, hnc], fun htrue => absurd (hvalid.symm.trans htrue) (by decide),
      fun _ => hnone⟩
  · obtain ⟨hvalid, h2, -, hnc, -⟩ := id htree
    have hne : s.nodeCount ≠ 0#32 := by
      intro h0
      rw [h0, BitVec.toNat_ofNat, Nat.zero_mod] at hnc
      omega
    exact ⟨⟨fun _ => hne, fun _ => hvalid⟩, fun _ => htree,
      fun hfalse => absurd (hvalid.symm.trans hfalse) (by decide)⟩

end Sys2Proof.Machine
end

section
/-! PROOFS. The register map (R40), host writes of registers (R76, R77), the layout of register words (R24,
R25, R34, R35), the constants (R30) and hardware reset (R230). -/

namespace Sys2Proof.Machine

/-! ## The register map -/

theorem byte_ofNat_eq {x : Byte} {n : Nat} (h : n = x.toNat) : BitVec.ofNat 8 n = x := by
  subst h
  simp

theorem fin_ofNat_eq {k n : Nat} [NeZero k] {i : Fin k} (h : n = i.val) : Fin.ofNat k n = i := by
  subst h
  exact Fin.ext (Nat.mod_eq_of_lt i.isLt)

theorem nodePartAt_offset (part : NodePart) : nodePartAt (part.offset / 4) = part := by
  cases part <;> rfl

theorem offset_nodePartAt {j : Nat} (h : j < 4) : (nodePartAt j).offset = 4 * j := by
  match j, h with
  | 0, _ | 1, _ | 2, _ | 3, _ => rfl

theorem nodePart_offset_lt (part : NodePart) : part.offset < 16 := by cases part <;> decide

/-- The staged words stand below 0x80 (R40). -/
theorem regAt_codeStage_offset : ∀ w : Fin 8, regAt (Reg.codeStage w).offset = some (.codeStage w) := by
  decide

/-- The offset of a register reaches it (R40). -/
theorem regAt_of_eq_offset {off : Nat} {r : Reg} (h : off = r.offset) : regAt off = some r := by
  cases r with
  | codeStage w => exact h ▸ regAt_codeStage_offset w
  | weight x =>
    have := x.isLt
    simp only [Reg.offset] at h
    rw [regAt, if_neg (by omega), if_pos (by omega), byte_ofNat_eq (x := x) (by omega)]
  | codeLen x =>
    have := x.isLt
    simp only [Reg.offset] at h
    rw [regAt, if_neg (by omega), if_neg (by omega), if_pos (by omega), byte_ofNat_eq (x := x) (by omega)]
  | dictOrder k =>
    have := k.isLt
    simp only [Reg.offset] at h
    rw [regAt, if_neg (by omega), if_neg (by omega), if_neg (by omega), if_pos (by omega),
      byte_ofNat_eq (x := k) (by omega)]
  | codeBits x w =>
    have := x.isLt
    simp only [Reg.offset] at h
    rw [regAt, if_neg (by omega), if_neg (by omega), if_neg (by omega), if_neg (by omega),
      if_pos (by omega), byte_ofNat_eq (x := x) (by omega), fin_ofNat_eq (i := w) (by omega)]
  | node i part =>
    have := nodePart_offset_lt part
    simp only [Reg.offset] at h
    rw [regAt, if_neg (by omega), if_neg (by omega), if_neg (by omega), if_neg (by omega),
      if_neg (by omega), if_pos (by omega), fin_ofNat_eq (i := i) (by omega),
      show (off - 0x04000) % 16 / 4 = part.offset / 4 by omega, nodePartAt_offset]
  | _ => subst h; rfl

/-- A word below 0x80 that reaches a register is that register's place (R40). -/
theorem lowRegAt_word : ∀ k < 32, ∀ r ∈ lowRegAt (4 * k), 4 * k = r.offset := by decide

/-- An aligned offset that reaches a register is that register's (R40). -/
theorem offset_of_regAt {off : Nat} {r : Reg} (h4 : off % 4 = 0) (h : regAt off = some r) :
    off = r.offset := by
  unfold regAt at h
  split at h
  · have hoff : 4 * (off / 4) = off := by omega
    rw [← hoff] at h ⊢
    exact lowRegAt_word (off / 4) (by omega) r h
  · split at h
    · cases h
      simp only [Reg.offset, BitVec.toNat_ofNat]
      omega
    · split at h
      · cases h
        simp only [Reg.offset, BitVec.toNat_ofNat]
        omega
      · split at h
        · cases h
          simp only [Reg.offset, BitVec.toNat_ofNat]
          omega
        · split at h
          · cases h
            simp only [Reg.offset, BitVec.toNat_ofNat, Fin.val_ofNat]
            omega
          · split at h
            · cases h
              simp only [Reg.offset, Fin.val_ofNat]
              rw [offset_nodePartAt (by omega)]
              omega
            · cases h

/-- Settles O4. -/
theorem registerMapMatchesOffsets : Obligations.RegisterMapMatchesOffsets :=
  fun _ _ _ h4 => ⟨offset_of_regAt h4, regAt_of_eq_offset⟩

/-- Every register lies at an aligned offset of the register region (R40). -/
theorem offset_aligned (r : Reg) : r.offset < 0x10000 ∧ r.offset % 4 = 0 := by
  cases r with
  | weight x => have := x.isLt; simp only [Reg.offset]; omega
  | codeLen x => have := x.isLt; simp only [Reg.offset]; omega
  | dictOrder k => have := k.isLt; simp only [Reg.offset]; omega
  | codeBits x w => have := x.isLt; simp only [Reg.offset]; omega
  | codeStage w => simp only [Reg.offset]; omega
  | node i part => cases part <;> simp only [Reg.offset, NodePart.offset] <;> omega
  | _ => decide

/-! ## Host accesses by offset -/

theorem target_reg (s : State) {off : BitVec 17} {r : Reg} (h : off.toNat = r.offset) :
    s.target off .word = .reg r := by
  obtain ⟨hlt, h4⟩ := offset_aligned r
  have hreg : regAt r.offset = some r := regAt_of_eq_offset rfl
  simp only [State.target, h, hreg, if_pos hlt, if_pos h4]

/-- An offset with no register below BUF, and any past BUF_BYTES, is reserved (R40, R71). -/
theorem target_reserved {s : State} {off : BitVec 17} {size : AccessSize}
    (h : (size = .word ∧ off.toNat < 0x10000 ∧ off.toNat % 4 = 0 ∧ (∀ r : Reg, r.offset ≠ off.toNat)) ∨
      (size ≠ .half ∧ 0x10000 + s.bufBytes ≤ off.toNat)) : s.target off size = .reserved := by
  rcases h with ⟨rfl, hlt, h4, hnone⟩ | ⟨hsize, hpast⟩
  · have hreg : regAt off.toNat = none :=
      Option.eq_none_iff_forall_ne_some.2 fun r hr => hnone r (offset_of_regAt h4 hr).symm
    simp only [State.target, if_pos hlt, if_pos h4, hreg]
  · cases size with
    | half => exact absurd rfl hsize
    | byte =>
      simp only [State.target, bufBase]
      rw [if_neg (by omega), if_neg (by omega)]
    | word =>
      simp only [State.target, bufBase]
      rw [if_neg (by omega), if_neg (by omega)]

/-- A word write at a register's offset writes it, unless R233 forbids that. -/
theorem hostWrite_reg {s : State} {off : BitVec 17} {r : Reg} (v : Word) (hoff : off.toNat = r.offset)
    (h : s.busy = false ∨ r.writableWhileBusy = true) :
    hostWrite off .word v s = .next (s.writeReg v r) := by
  have hfree : (s.busy && !r.writableWhileBusy) = false := by
    rcases h with h | h <;> simp [h]
  simp only [hostWrite, target_reg s hoff, hfree, Bool.false_eq_true, if_false]

/-- Settles O45. -/
theorem reservedAndReadOnlyIgnoreWrites : Obligations.ReservedAndReadOnlyIgnoreWrites := by
  intro s hidle
  refine ⟨fun off size v => ⟨fun h => ?_, fun r hoff hsize hr => ?_⟩, fun v => ?_⟩
  · constructor
    · simp only [hostRead, target_reserved h, hidle, Bool.false_eq_true, if_false]
      rfl
    · simp only [hostWrite, target_reserved h, hidle, Bool.false_eq_true, if_false]
  · subst hsize
    rw [hostWrite_reg v hoff (.inl hidle)]
    rcases hr with rfl | rfl | rfl | rfl | rfl | rfl | rfl | rfl | rfl | rfl | rfl | ⟨x, rfl⟩ | ⟨k, rfl⟩ |
      ⟨x, w, rfl⟩ | ⟨i, p, rfl⟩ <;> rfl
  · refine ⟨hostWrite_reg (r := .arg0) v rfl (.inl hidle), hostWrite_reg (r := .arg1) v rfl (.inl hidle),
      hostWrite_reg (r := .arg2) v rfl (.inl hidle), hostWrite_reg (r := .irqEn) v rfl (.inl hidle),
      fun i hi => ?_, fun i hi => ?_⟩
    · exact hostWrite_reg (r := .codeStage ⟨i, hi⟩) v (by simp [Reg.offset]; omega) (.inl hidle)
    · have hx : (BitVec.ofNat 8 i).toNat = i := by simp; omega
      rw [hostWrite_reg (r := .weight (BitVec.ofNat 8 i)) v (by simp only [Reg.offset, hx]; simp; omega)
        (.inl hidle)]
      simp only [State.writeReg, tableSet, hx]

/-- Settles O40. -/
theorem statusWriteClears : Obligations.StatusWriteClears := by
  intro s v
  refine ⟨s.clearStatus v, hostWrite_reg (r := .status) v rfl (.inr rfl), ?_, ?_, rfl, rfl, ?_, rfl⟩
  · rw [State.clearStatus_done]
    cases v.getLsbD 1 <;> simp
  · rw [State.clearStatus_err]
    cases v.getLsbD 2 <;> simp
  · rw [State.clearStatus_rej]
    cases v.getLsbD 3 <;> simp

/-! ## The layout of register words -/

/-- Bits of a number put together from a high part and k low bits. -/
theorem testBit_join (high : Nat) {low k : Nat} (h : low < 2 ^ k) (j : Nat) :
    (high * 2 ^ k + low).testBit j = if j < k then low.testBit j else high.testBit (j - k) := by
  rw [Nat.mul_comm, Nat.testBit_two_pow_mul_add _ h]

theorem testBit_toNat_bool (b : Bool) (j : Nat) : b.toNat.testBit j = (decide (j = 0) && b) := by
  cases b with
  | false => simp
  | true =>
    cases j with
    | zero => rfl
    | succ j => simp [Nat.testBit_succ]

/-- CODE_BITS words hold a code's bits from the most significant down (R35, R74). -/
theorem getLsbD_codeRowWord (row : CodeRow) (w : Fin 8) {i : Nat} (h : i < 32) :
    (codeRowWord row w).getLsbD (31 - i) = row.getMsbD (32 * w.val + i) := by
  have hw := w.isLt
  simp only [codeRowWord, BitVec.getLsbD_extractLsb', BitVec.getMsbD]
  rw [show 224 - 32 * w.val + (31 - i) = 256 - 1 - (32 * w.val + i) by omega,
    decide_eq_true (show 31 - i < 32 by omega), decide_eq_true (show 32 * w.val + i < 256 by omega)]

/-- The bits of an arena entry's four words (R34). -/
theorem getLsbD_nodeWord (n : Node) (p : NodePart) {j : Nat} (h : j < 32) :
    (nodeWord n p).getLsbD j =
      match p with
      | .wlo => n.weight.getLsbD j
      | .whi => if j < 8 then n.weight.getLsbD (32 + j) else false
      | .info => if j < 8 then n.symbol.getLsbD j else if j = 31 then n.leaf else false
      | .link =>
        if j < 9 then n.left.getLsbD j
        else if 16 ≤ j ∧ j < 25 then n.right.getLsbD (j - 16) else false := by
  cases p with
  | wlo => simp [nodeWord, h]
  | whi =>
    simp only [nodeWord, BitVec.getLsbD_setWidth, BitVec.getLsbD_extractLsb', h, decide_true, Bool.true_and]
    by_cases hj : j < 8 <;> simp [hj]
  | info =>
    have hlow : n.symbol.toNat < 2 ^ 31 := by have := n.symbol.isLt; omega
    simp only [nodeWord, BitVec.getLsbD_ofNat, testBit_join _ hlow, h, decide_true, Bool.true_and,
      BitVec.testBit_toNat, testBit_toNat_bool]
    by_cases hj : j < 8
    · simp [hj, show j < 31 by omega]
    · by_cases hj' : j = 31
      · simp [hj']
      · rw [if_pos (by omega), if_neg hj, if_neg hj', BitVec.getLsbD_of_ge _ _ (by omega)]
  | link =>
    have hlow : n.left.toNat < 2 ^ 16 := by have := n.left.isLt; omega
    simp only [nodeWord, BitVec.getLsbD_ofNat, testBit_join _ hlow, h, decide_true, Bool.true_and,
      BitVec.testBit_toNat]
    by_cases hj : j < 9
    · simp [hj, show j < 16 by omega]
    · by_cases hj' : j < 16
      · rw [if_pos hj', if_neg hj, if_neg (by omega), BitVec.getLsbD_of_ge _ _ (by omega)]
      · rw [if_neg hj', if_neg hj]
        split
        · rfl
        · rw [BitVec.getLsbD_of_ge _ _ (by omega)]

/-- STATUS holds its five flags in bits 4:0 (R24). -/
theorem getLsbD_statusWord (s : State) {j : Nat} (h : j < 32) :
    s.statusWord.getLsbD j =
      if j = 0 then s.busy else if j = 1 then s.done else if j = 2 then s.err else if j = 3 then s.rej
        else if j = 4 then s.treeValid else false := by
  have hbit : ∀ b : Bool, b.toNat < 2 ^ 1 := fun b => by cases b <;> decide
  have hsum : s.busy.toNat + s.done.toNat * 2 + s.err.toNat * 4 + s.rej.toNat * 8 + s.treeValid.toNat * 16 =
      (((s.treeValid.toNat * 2 ^ 1 + s.rej.toNat) * 2 ^ 1 + s.err.toNat) * 2 ^ 1 + s.done.toNat) * 2 ^ 1 +
        s.busy.toNat := by omega
  rw [State.statusWord, hsum, BitVec.getLsbD_ofNat]
  simp only [testBit_join _ (hbit _), testBit_toNat_bool, h, decide_true, Bool.true_and]
  match j with
  | 0 | 1 | 2 | 3 | 4 => simp
  | j + 5 => simp

/-- A field of m bits read in a word: its bits, and 0 above them. -/
theorem getLsbD_setWidth_word {m : Nat} (x : BitVec m) {j : Nat} (h : j < 32) :
    (x.setWidth 32).getLsbD j = if j < m then x.getLsbD j else false := by
  simp only [BitVec.getLsbD_setWidth, h, decide_true, Bool.true_and]
  split
  · rfl
  · exact BitVec.getLsbD_of_ge x j (by omega)

theorem nodeAt_fin (s : State) (i : Fin 511) : s.nodeAt i.val = s.node[i] := by
  simp [State.nodeAt]

/-- Settles O48. -/
theorem codeBitsReadLeftAligned : Obligations.CodeBitsReadLeftAligned := by
  intro s
  refine ⟨fun x w i hi => getLsbD_codeRowWord _ w hi, fun i p j hj => ?_, fun j hj => ⟨?_, ?_, ?_, ?_⟩,
    fun hnone => ?_, fun k hk => ?_⟩
  · rw [State.readReg, nodeAt_fin]
    exact getLsbD_nodeWord _ p hj
  · exact getLsbD_statusWord s hj
  · exact getLsbD_setWidth_word s.irqEn hj
  · exact fun x => getLsbD_setWidth_word (tableGet s.codeLen x) hj
  · exact fun k => getLsbD_setWidth_word (tableGet s.dictOrder k) hj
  · rw [State.readReg, State.errCodeWord, hnone]
  · rw [State.readReg, State.errCodeWord, hk]
    cases k <;> rfl

/-! ## The constants -/

/-- Settles O49: PARAMS holds 10 + bufLog above the byte 0xFF, and no step changes bufLog. -/
theorem constantsNeverChange : Obligations.ConstantsNeverChange := by
  refine ⟨fun s => ⟨rfl, ?_⟩, fun s t h => (bufLog_stepClosed s.bufLog).step rfl h⟩
  have hlog := s.bufLog.isLt
  have hparams : (s.readReg .params).toNat = (10 + s.bufLog.val) * 256 + 255 := by
    simp only [State.readReg, State.paramsWord, Config.lMax, BitVec.toNat_ofNat]
    omega
  rw [hparams]
  refine ⟨by omega, ?_⟩
  rw [State.bufBytes, show ((10 + s.bufLog.val) * 256 + 255) / 256 = 10 + s.bufLog.val by omega]

/-! ## Hardware reset -/

/-- Settles O50. -/
theorem hardResetClearsAll : Obligations.HardResetClearsAll := by
  intro s rest h
  refine ⟨State.hardReset { s with inputs := rest }, ?_, fun _ => rfl, rfl, rfl, rfl⟩
  rw [step_eq, h]

end Sys2Proof.Machine
end

section
/-! PROOFS. What one host access does: reads of registers (R77), invalid accesses (R75), and reads and writes
of BUF, byte by byte and in little-endian words (R71, R72, R85). -/

namespace Sys2Proof.Machine

/-! ## Reads of registers -/

theorem toNat_busOffset (r : Reg) : r.busOffset.toNat = r.offset := by
  obtain ⟨hlt, -⟩ := offset_aligned r
  rw [Reg.busOffset, BitVec.toNat_ofNat]
  omega

/-- A word read at a register's offset answers its word, unless R234 leaves the answer open. -/
theorem hostRead_reg {s : State} {off : BitVec 17} {r : Reg} (hoff : off.toNat = r.offset)
    (h : s.busy = false ∨ r.readableWhileBusy = true) :
    hostRead off .word s = .next (s.respond (s.readReg r)) := by
  have hexact : (s.busy && !r.readableWhileBusy) = false := by
    rcases h with h | h <;> simp [h]
  simp only [hostRead, target_reg s hoff, hexact, Bool.false_eq_true, if_false]

/-! ## Reads of BUF -/

theorem readBufByte_written {s : State} {a : Nat} {b : Byte} (h : Memory.read s.buf a = some b) :
    readBufByte s a = .next (s.respond (b.setWidth 32)) := by
  simp only [readBufByte, h]

theorem readBufByte_unwritten {s : State} {a : Nat} (h : Memory.read s.buf a = none) :
    readBufByte s a = .fault (.unwrittenBufByte a) := by
  simp only [readBufByte, h]

theorem readBufWord_written {s : State} {a : Nat} {b0 b1 b2 b3 : Byte} (h0 : Memory.read s.buf a = some b0)
    (h1 : Memory.read s.buf (a + 1) = some b1) (h2 : Memory.read s.buf (a + 2) = some b2)
    (h3 : Memory.read s.buf (a + 3) = some b3) :
    readBufWord s a = .next (s.respond (wordOfBytes b0 b1 b2 b3)) := by
  simp only [readBufWord, h0, h1, h2, h3]

/-- A word read faults at the first unwritten byte of the word (R85). -/
theorem readBufWord_unwritten {s : State} {a j : Nat} (hj : j < 4)
    (hwritten : ∀ i, i < j → Memory.read s.buf (a + i) ≠ none) (hnone : Memory.read s.buf (a + j) = none) :
    readBufWord s a = .fault (.unwrittenBufByte (a + j)) := by
  have written (i : Nat) (hi : i < j) : ∃ b, Memory.read s.buf (a + i) = some b :=
    Option.ne_none_iff_exists'.1 (hwritten i hi)
  match j, hj with
  | 0, _ => simp only [Nat.add_zero] at hnone; simp only [readBufWord, hnone, Nat.add_zero]
  | 1, _ =>
    obtain ⟨b0, h0⟩ := written 0 (by omega)
    rw [Nat.add_zero] at h0
    simp only [readBufWord, h0, hnone]
  | 2, _ =>
    obtain ⟨b0, h0⟩ := written 0 (by omega)
    obtain ⟨b1, h1⟩ := written 1 (by omega)
    rw [Nat.add_zero] at h0
    simp only [readBufWord, h0, h1, hnone]
  | 3, _ =>
    obtain ⟨b0, h0⟩ := written 0 (by omega)
    obtain ⟨b1, h1⟩ := written 1 (by omega)
    obtain ⟨b2, h2⟩ := written 2 (by omega)
    rw [Nat.add_zero] at h0
    simp only [readBufWord, h0, h1, h2, hnone]

theorem readBufByte_next {s t : State} {a : Nat} (h : readBufByte s a = .next t) : ∃ v, t = s.respond v := by
  unfold readBufByte at h
  split at h
  · exact ⟨_, by simpa using h.symm⟩
  · cases h

theorem readBufWord_next {s t : State} {a : Nat} (h : readBufWord s a = .next t) : ∃ v, t = s.respond v := by
  unfold readBufWord at h
  split at h
  · exact ⟨_, by simpa using h.symm⟩
  all_goals cases h

/-- With no command running, every read that answers is exact: it draws no free value (R77, R234). -/
theorem hostRead_idle_next {off : BitVec 17} {size : AccessSize} {s t : State} (hidle : s.busy = false)
    (h : hostRead off size s = .next t) : ∃ v, t = s.respond v := by
  simp only [hostRead, hidle, Bool.false_and, Bool.false_eq_true, if_false] at h
  split at h
  · exact ⟨_, by simpa using h.symm⟩
  · exact ⟨_, by simpa using h.symm⟩
  · exact ⟨_, by simpa using h.symm⟩
  · exact readBufByte_next h
  · exact readBufWord_next h

/-- Settles O42: an idle machine answers every read exactly. -/
theorem readsHaveNoSideEffect : Obligations.ReadsHaveNoSideEffect := by
  refine ⟨fun s t off size h => ⟨?_, fun hidle => ?_⟩,
    fun s r hidle => hostRead_reg (toNat_busOffset r) (.inl hidle)⟩
  · rcases hostRead_next h with ⟨v, rfl⟩ | rfl <;> rfl
  · obtain ⟨v, rfl⟩ := hostRead_idle_next hidle h
    rfl

/-! ## Invalid accesses -/

/-- The accesses that R71 does not list as valid (R75). -/
theorem target_invalid {s : State} {off : BitVec 17} {size : AccessSize}
    (h : size = .half ∨ (size = .byte ∧ off.toNat < 0x10000) ∨
      (size = .word ∧ off.toNat % 4 ≠ 0 ∧ off.toNat < 0x10000 + s.bufBytes)) :
    s.target off size = .invalid := by
  rcases h with rfl | ⟨rfl, hlt⟩ | ⟨rfl, h4, hlt⟩
  · rfl
  · simp only [State.target, if_pos hlt]
  · by_cases hreg : off.toNat < bufBase
    · simp only [State.target, if_pos hreg, if_neg h4]
    · have hbuf : off.toNat - bufBase < s.bufBytes := by simp only [bufBase] at *; omega
      simp only [State.target, if_neg hreg, if_pos hbuf, if_neg h4]

/-- Settles O44: the target of an invalid access is looked at before BUSY. -/
theorem invalidAccessesDoNothing : Obligations.InvalidAccessesDoNothing := by
  intro s off size v h
  constructor
  · simp only [hostRead, target_invalid h]
    rfl
  · simp only [hostWrite, target_invalid h]

/-! ## Accesses to BUF with no command running -/

section
variable {s : State} {a : Nat} (hidle : s.busy = false)
include hidle

theorem hostRead_bufByte (ha : a < s.bufBytes) : hostRead (bufOffset a) .byte s = readBufByte s a := by
  simp only [hostRead, target_bufOffset_byte ha, hidle, Bool.false_eq_true, if_false]

theorem hostRead_bufWord (h4 : a % 4 = 0) (ha : a + 4 ≤ s.bufBytes) :
    hostRead (bufOffset a) .word s = readBufWord s a := by
  simp only [hostRead, target_bufOffset_word ha h4, hidle, Bool.false_eq_true, if_false]

theorem hostWrite_bufByte (v : Word) (ha : a < s.bufBytes) :
    hostWrite (bufOffset a) .byte v s = .next (s.bufWriteList a [byteOfWord v 0]) := by
  simp only [hostWrite, target_bufOffset_byte ha, hidle, Bool.false_eq_true, if_false]

theorem hostWrite_bufWord (v : Word) (h4 : a % 4 = 0) (ha : a + 4 ≤ s.bufBytes) :
    hostWrite (bufOffset a) .word v s = .next (s.bufWriteList a (bytesOfWord v)) := by
  simp only [hostWrite, target_bufOffset_word ha h4, hidle, Bool.false_eq_true, if_false]

end

/-! ## Words and their bytes -/

theorem toNat_wordOfBytes (b0 b1 b2 b3 : Byte) : (wordOfBytes b0 b1 b2 b3).toNat =
    b3.toNat * 2 ^ 24 + b2.toNat * 2 ^ 16 + b1.toNat * 2 ^ 8 + b0.toNat := by
  have := b0.isLt
  have := b1.isLt
  have := b2.isLt
  have := b3.isLt
  rw [wordOfBytes, BitVec.toNat_ofNat]
  omega

theorem toNat_byteOfWord (v : Word) (j : Nat) : (byteOfWord v j).toNat = v.toNat / 2 ^ (8 * j) % 2 ^ 8 :=
  toNat_field v (8 * j)

/-- A word is put together again from the bytes BUF holds of it (R72). -/
theorem wordOfBytes_byteOfWord (v : Word) :
    wordOfBytes (byteOfWord v 0) (byteOfWord v 1) (byteOfWord v 2) (byteOfWord v 3) = v := by
  apply BitVec.eq_of_toNat_eq
  simp only [toNat_wordOfBytes, toNat_byteOfWord]
  have := v.isLt
  omega

/-- A byte put above the k low bits that a word occupies adds its value times 2 ^ k. -/
theorem toNat_or_byte_shiftLeft {x : Word} {k : Nat} (hk : k ≤ 24) (hx : x.toNat < 2 ^ k) (b : Byte) :
    (x ||| (b.setWidth 32 <<< k)).toNat = b.toNat * 2 ^ k + x.toNat := by
  have hpow : 2 ^ k ≤ 2 ^ 24 := Nat.pow_le_pow_right (by decide) hk
  have hfit : b.toNat * 2 ^ k < 2 ^ 32 :=
    calc b.toNat * 2 ^ k ≤ 255 * 2 ^ 24 := Nat.mul_le_mul (by omega) hpow
      _ < 2 ^ 32 := by decide
  have hb : (b.setWidth 32).toNat = b.toNat := by rw [BitVec.toNat_setWidth]; omega
  rw [BitVec.toNat_or, BitVec.toNat_shiftLeft, hb, Nat.shiftLeft_eq, Nat.mod_eq_of_lt hfit, Nat.or_comm,
    Nat.mul_comm, ← Nat.two_pow_add_eq_or_of_lt hx]

/-- The little-endian word as four bytes put in their places. -/
theorem wordOfBytes_eq_or (b0 b1 b2 b3 : Byte) : wordOfBytes b0 b1 b2 b3 =
    b0.setWidth 32 ||| (b1.setWidth 32 <<< 8) ||| (b2.setWidth 32 <<< 16) ||| (b3.setWidth 32 <<< 24) := by
  have h0 : (b0.setWidth 32 : Word).toNat = b0.toNat := by rw [BitVec.toNat_setWidth]; omega
  have h1 := toNat_or_byte_shiftLeft (k := 8) (by decide) (by omega) b1 (x := b0.setWidth 32)
  have h2 := toNat_or_byte_shiftLeft (k := 16) (by decide) (by omega) b2
    (x := b0.setWidth 32 ||| (b1.setWidth 32 <<< 8))
  have h3 := toNat_or_byte_shiftLeft (k := 24) (by decide) (by omega) b3
    (x := b0.setWidth 32 ||| (b1.setWidth 32 <<< 8) ||| (b2.setWidth 32 <<< 16))
  apply BitVec.eq_of_toNat_eq
  rw [h3, h2, h1, h0, toNat_wordOfBytes]
  omega

/-- A byte of a word, as a byte read answers it. -/
theorem setWidth_byteOfWord (v : Word) (j : Nat) :
    (byteOfWord v j).setWidth 32 = (v >>> (8 * j)) &&& 0xFF#32 := by
  apply BitVec.eq_of_toNat_eq
  have hmask : (0xFF#32).toNat = 2 ^ 8 - 1 := rfl
  rw [BitVec.toNat_and, hmask, Nat.and_two_pow_sub_one_eq_mod, BitVec.toNat_ushiftRight,
    Nat.shiftRight_eq_div_pow, BitVec.toNat_setWidth, toNat_byteOfWord]
  omega

theorem length_bytesOfWord (v : Word) : (bytesOfWord v).length = 4 := rfl

/-- After a word write, byte j of the word is read at its offset (R72). -/
theorem read_bufWriteList_word (s : State) (a : Nat) (v : Word) {j : Nat} (hj : j < 4) :
    Memory.read (s.bufWriteList a (bytesOfWord v)).buf (a + j) = some (byteOfWord v j) := by
  rw [State.bufWriteList_buf, Memory.read_writeList_inside hj]
  match j, hj with
  | 0, _ | 1, _ | 2, _ | 3, _ => rfl

/-- Where BUF holds the four bytes of a word, the host reads the word whole and byte by byte (R72). -/
theorem hostRead_storedWord {s : State} {a : Nat} {v : Word} (hidle : s.busy = false) (h4 : a % 4 = 0)
    (ha : a + 4 ≤ s.bufBytes)
    (stored : ∀ j, j < 4 → Memory.read s.buf (a + j) = some (byteOfWord v j)) :
    hostRead (bufOffset a) .word s = .next (s.respond v) ∧
      ∀ j, j < 4 → hostRead (bufOffset (a + j)) .byte s = .next (s.respond ((v >>> (8 * j)) &&& 0xFF#32)) := by
  refine ⟨?_, fun j hj => ?_⟩
  · have h0 : Memory.read s.buf a = some (byteOfWord v 0) := stored 0 (by decide)
    rw [hostRead_bufWord hidle h4 ha, readBufWord_written h0 (stored 1 (by decide)) (stored 2 (by decide))
      (stored 3 (by decide)), wordOfBytes_byteOfWord]
  · have haj : a + j < s.bufBytes := by omega
    rw [hostRead_bufByte hidle haj, readBufByte_written (stored j hj), setWidth_byteOfWord]

/-- Settles O43: each byte of a word goes to its own offset and comes back from there. -/
theorem bufWordsAreLittleEndian : Obligations.BufWordsAreLittleEndian := by
  intro s hidle
  refine ⟨fun a b ha hb => ?_, fun a b0 b1 b2 b3 h4 ha h0 h1 h2 h3 => ?_, fun a v ha => ?_,
    fun a v h4 ha => ?_⟩
  · rw [hostRead_bufByte hidle ha, readBufByte_written hb]
    rfl
  · rw [hostRead_bufWord hidle h4 ha, readBufWord_written h0 h1 h2 h3, wordOfBytes_eq_or]
    rfl
  · refine ⟨_, hostWrite_bufByte hidle v ha, ?_, fun b hb => ?_, rfl⟩
    · rw [State.bufWriteList_buf, Memory.read_writeList, if_pos (by simp)]
      simp [byteOfWord]
    · exact Memory.read_writeList_outside (by simp only [List.length_cons, List.length_nil]; omega)
  · obtain ⟨hword, hbytes⟩ := hostRead_storedWord (s := s.bufWriteList a (bytesOfWord v)) hidle h4 ha
      (fun _ hj => read_bufWriteList_word s a v hj)
    exact ⟨_, hostWrite_bufWord hidle v h4 ha, hword, hbytes,
      fun _ hb => Memory.read_writeList_outside (by rw [length_bytesOfWord]; exact hb), rfl⟩

end Sys2Proof.Machine
end

section
/-! PROOFS. Whose turn a step is (R71, R80, R206), the two faults a step can stop on (R85, R233), and the
written-mask, which only hardware reset clears (R85, R117). -/

namespace Sys2Proof.Machine

/-! ## Turns -/

/-- The engine's turn runs the command its word decodes to (R112). -/
theorem engineStep_running {s : State} {e : Engine} {i : Instr} (he : s.engine = some e)
    (hd : decode e.cmd = .ok i) : engineStep s = exec i s := by
  simp only [engineStep, he, hd]

/-- Settles O5. -/
theorem stepRunsDecodedCommand : Obligations.StepRunsDecodedCommand := by
  refine fun s => ⟨fun e i he hd => ⟨fun rest hi => ?_, fun hi => ?_⟩, fun off size rest hi => ?_,
    fun off size v rest hi => ?_⟩
  · rw [step_eq, hi]
    exact engineStep_running he hd
  · rw [step_eq, hi]
    exact engineStep_running he hd
  · rw [step_eq, hi]
    rfl
  · rw [step_eq, hi]
    rfl

/-- Every step, whatever its outcome, is a turn of the engine, a host access or a hardware reset, at the
state with its first input gone. -/
theorem step_turn (s : State) :
    (∃ rest, step s = engineStep { s with inputs := rest }) ∨
    (∃ rest t, step s = serve t { s with inputs := rest }) ∨
    (∃ rest, s.inputs = .hardReset :: rest ∧ step s = .next (State.hardReset { s with inputs := rest })) := by
  rw [step_eq]
  cases hi : s.inputs with
  | nil => exact .inl ⟨s.inputs, rfl⟩
  | cons x rest =>
    cases x with
    | complete => exact .inl ⟨rest, rfl⟩
    | access t => exact .inr (.inl ⟨rest, t, rfl⟩)
    | hardReset => exact .inr (.inr ⟨rest, rfl, rfl⟩)

/-! ## What a rule faults on -/

/-- The fault of R85 in a state: an unwritten BUF byte was read. -/
def ReadsUnwritten (s : State) (f : Fault) : Prop :=
  ∃ a, f = .unwrittenBufByte a ∧ Memory.read s.buf a = none

theorem bufRead_fault {s : State} {a : Nat} {f : Fault} (h : s.bufRead a = .error (.fault f)) :
    ReadsUnwritten s f := by
  obtain ⟨hnone, hf⟩ := bufRead_error.1 h
  exact ⟨a, by simpa using hf, hnone⟩

theorem bufReadList_fault {s : State} {a n : Nat} {f : Fault} (h : s.bufReadList a n = .error (.fault f)) :
    ReadsUnwritten s f := by
  obtain ⟨b, hf, hnone⟩ := bufReadList_error h
  exact ⟨b, by simpa using hf, hnone⟩

theorem packSymbols_fault {s : State} {n a i : Nat} {f : Fault}
    (h : packSymbols s n a i = .error (.fault f)) : ReadsUnwritten s f := by
  obtain ⟨j, -, -, ⟨hnone, hf⟩ | ⟨x, -, -, hraise⟩⟩ := packSymbols_error h
  · exact ⟨a + j, by simpa using hf, hnone⟩
  · cases hraise

/-- PACK faults only in its scan of the source (R170). -/
theorem packBody_fault {s : State} {f : Fault} (h : packBody s = .error (.fault f)) :
    ReadsUnwritten s f := by
  unfold packBody packStore at h
  split at h
  · cases h
  · split at h
    · cases h
    · split at h
      · cases h
        exact packSymbols_fault (by assumption)
      · repeat' split at h
        all_goals cases h

theorem unpackDecode_not_fault (s : State) (data : List Byte) (m : Nat) (f : Fault) :
    unpackDecode s data m ≠ .error (.fault f) := by
  intro h
  unfold unpackDecode unpackStore at h
  dsimp only at h
  repeat' split at h
  all_goals cases h

/-- UNPACK faults only at its metadata byte and in its read of the data bytes (R185). -/
theorem unpackBody_fault {s : State} {f : Fault} (h : unpackBody s = .error (.fault f)) :
    ReadsUnwritten s f := by
  unfold unpackBody at h
  split at h
  · cases h
  · split at h
    · cases h
    · split at h
      · cases h
      · split at h
        · cases h
          exact bufRead_fault (by assumption)
        · split at h
          · cases h
          · split at h
            · cases h
              exact bufReadList_fault (by assumption)
            · exact absurd h (unpackDecode_not_fault s _ _ f)

/-- A command's rule faults only on an unwritten BUF byte (R85). -/
theorem body_fault {i : Instr} {s : State} {f : Fault} (h : body i s = .error (.fault f)) :
    ReadsUnwritten s f := by
  cases i with
  | nop => cases h
  | sreset => cases h
  | wclear => cases h
  | build =>
    simp only [body, buildBody] at h
    split at h <;> cases h
  | gen =>
    simp only [body, genBody] at h
    split at h <;> cases h
  | dclear => cases h
  | dadd sym len =>
    simp only [body, daddBody] at h
    repeat' split at h
    all_goals cases h
  | pack => exact packBody_fault h
  | unpack => exact unpackBody_fault h

/-! ## What a step stops on -/

theorem engineStep_fault {s : State} {f : Fault} (h : engineStep s = .fault f) : ReadsUnwritten s f := by
  rcases engineStep_cases s with ⟨-, hs⟩ | ⟨e, i, -, -, hs⟩ | ⟨e, r, -, -, hs⟩ <;> rw [hs] at h
  · cases h
  · rw [exec_eq] at h
    exact body_fault (complete_faults h)
  · cases h

theorem engineStep_not_refused (s : State) (x : Refusal) : engineStep s ≠ .refused x := by
  rcases engineStep_cases s with ⟨-, hs⟩ | ⟨e, i, -, -, hs⟩ | ⟨e, r, -, -, hs⟩ <;> rw [hs]
  · simp
  · rw [exec_eq]
    exact complete_not_refused s _ x
  · simp

theorem serve_fault {t : Transaction} {s : State} {f : Fault} (h : serve t s = .fault f) :
    ReadsUnwritten s f ∨ ∃ off, f = .writeWhileBusy off ∧ s.busy = true := by
  cases t with
  | read off size =>
    obtain ⟨-, hread⟩ := hostRead_fault h
    exact .inl hread
  | write off size v =>
    obtain ⟨hbusy, hf⟩ := hostWrite_fault h
    exact .inr ⟨off, hf, hbusy⟩

theorem step_fault {s : State} {f : Fault} (h : step s = .fault f) :
    ReadsUnwritten s f ∨ ∃ off, f = .writeWhileBusy off ∧ s.busy = true := by
  rcases step_turn s with ⟨rest, hs⟩ | ⟨rest, t, hs⟩ | ⟨rest, -, hs⟩ <;> rw [hs] at h
  · exact .inl (engineStep_fault (s := { s with inputs := rest }) h)
  · exact serve_fault (s := { s with inputs := rest }) h
  · cases h

theorem step_not_refused (s : State) (x : Refusal) : step s ≠ .refused x := by
  rcases step_turn s with ⟨rest, hs⟩ | ⟨rest, t, hs⟩ | ⟨rest, -, hs⟩ <;> rw [hs]
  · exact engineStep_not_refused _ x
  · exact serve_not_refused t _ x
  · simp

/-! ## The reads that must fault -/

section
variable {s : State} (source : s.InRange s.argSrc s.argLen) (count : s.dictCount ≠ 0#32)
include source count

/-- PACK faults at the first unwritten source byte with no unknown symbol before it (R85, R170). -/
theorem execPack_unwritten {i : Nat} (hi : i < s.argLen)
    (known : ∀ j, j < i → ∃ x, Memory.read s.buf (s.argSrc + j) = some x ∧ s.hasEntry x = true)
    (hnone : Memory.read s.buf (s.argSrc + i) = none) :
    exec .pack s = .fault (.unwrittenBufByte (s.argSrc + i)) := by
  have hbody : packBody s = .error (.fault (.unwrittenBufByte (s.argSrc + i))) := by
    simp only [packBody, if_neg (Decidable.not_not.2 source), if_neg count,
      packSymbols_unwritten hi known hnone]
  rw [exec_eq, body, hbody, complete_fault]

/-- UNPACK reads its metadata byte first (R185). -/
theorem execUnpack_metadata_unwritten (hlen : s.argLen ≠ 0)
    (hnone : Memory.read s.buf (s.argSrc + (s.argLen - 1)) = none) :
    exec .unpack s = .fault (.unwrittenBufByte (s.argSrc + (s.argLen - 1))) := by
  have hbody : unpackBody s = .error (.fault (.unwrittenBufByte (s.argSrc + (s.argLen - 1)))) := by
    simp only [unpackBody, if_neg (Decidable.not_not.2 source), if_neg count, if_neg hlen,
      bufRead_error.2 ⟨hnone, rfl⟩]
  rw [exec_eq, body, hbody, complete_fault]

/-- With a legal metadata byte, UNPACK faults at its first unwritten data byte (R85, R185). -/
theorem execUnpack_data_unwritten {m : Byte} {i : Nat}
    (hm : Memory.read s.buf (s.argSrc + (s.argLen - 1)) = some m) (metaOK : MetaOK (s.argLen - 1) m.toNat)
    (hi : i < s.argLen - 1) (written : ∀ j, j < i → Memory.read s.buf (s.argSrc + j) ≠ none)
    (hnone : Memory.read s.buf (s.argSrc + i) = none) :
    exec .unpack s = .fault (.unwrittenBufByte (s.argSrc + i)) := by
  have hlen : s.argLen ≠ 0 := by omega
  have hbody : unpackBody s = .error (.fault (.unwrittenBufByte (s.argSrc + i))) := by
    simp only [unpackBody, if_neg (Decidable.not_not.2 source), if_neg count, if_neg hlen, bufRead_ok.2 hm,
      if_neg (Decidable.not_not.2 metaOK), bufReadList_unwritten hi written hnone]
  rw [exec_eq, body, hbody, complete_fault]

end

/-- Settles O59: only BUF reads of PACK, UNPACK and the host fault, and host writes with a command running. -/
theorem stepStopsOnlyOnFaults : Obligations.StepStopsOnlyOnFaults := by
  refine fun s => ⟨fun f h => step_fault h, step_not_refused s, fun a hidle ha hnone => ?_,
    fun a j hidle h4 ha hj written hnone => ?_, fun source count => ⟨fun i hi known hnone => ?_,
      execUnpack_metadata_unwritten source count, fun m i hm hpos h8 hi written hnone => ?_⟩⟩
  · rw [hostRead_bufByte hidle ha, readBufByte_unwritten hnone]
  · rw [hostRead_bufWord hidle h4 ha, readBufWord_unwritten hj written hnone]
  · refine execPack_unwritten source count hi (fun j hj => ?_) hnone
    obtain ⟨x, hx, hlen⟩ := known j hj
    exact ⟨x, hx, by simpa [State.hasEntry] using hlen⟩
  · exact execUnpack_data_unwritten source count hm (.inr ⟨by omega, hpos, h8⟩) hi written hnone

/-! ## The written-mask -/

/-- Every BUF byte written in s is written in t (R39 item 4, R85). -/
def KeepsWritten (s t : State) : Prop := ∀ a, Memory.read s.buf a ≠ none → Memory.read t.buf a ≠ none

theorem keepsWritten_of_buf_eq {s t : State} (h : t.buf = s.buf) : KeepsWritten s t := by
  intro a
  rw [h]
  exact id

theorem keepsWritten_of_writeList {s t : State} {a : Nat} {vs : List Byte}
    (h : t.buf = Memory.writeList s.buf a vs) : KeepsWritten s t := by
  intro b hb
  rw [h, ← Option.isSome_iff_ne_none]
  exact Memory.read_writeList_isSome (Option.isSome_iff_ne_none.2 hb)

/-- Only PACK and UNPACK store in BUF, and a store unwrites nothing (R170, R185). -/
theorem Staged.keepsWritten {i : Instr} {s u : State} (h : Staged s i u) : KeepsWritten s u := by
  by_cases hp : i = .pack
  · subst hp
    cases h
    exact keepsWritten_of_writeList rfl
  · by_cases hu : i = .unpack
    · subst hu
      cases h
      exact keepsWritten_of_writeList rfl
    · obtain ⟨hbuf, -⟩ := h.buf hp hu
      exact keepsWritten_of_buf_eq hbuf

theorem engineStep_keepsWritten {s t : State} (h : engineStep s = .next t) : KeepsWritten s t := by
  rcases engineStep_next h with ⟨-, rfl⟩ | ⟨e, i, -, -, h⟩ | ⟨e, r, -, -, rfl⟩
  · exact keepsWritten_of_buf_eq rfl
  · rcases exec_next h with ⟨u, hu, rfl⟩ | ⟨k, info, -, rfl⟩
    · exact hu.keepsWritten
    · exact keepsWritten_of_buf_eq rfl
  · exact keepsWritten_of_buf_eq rfl

theorem serve_keepsWritten {tr : Transaction} {s t : State} (h : serve tr s = .next t) :
    KeepsWritten s t := by
  cases tr with
  | read off size => rcases hostRead_next h with ⟨v, rfl⟩ | rfl <;> exact keepsWritten_of_buf_eq rfl
  | write off size v =>
    rcases hostWrite_next h with rfl | ⟨r, rfl, -⟩ | ⟨-, a, vs, rfl, -⟩
    · exact keepsWritten_of_buf_eq rfl
    · obtain ⟨hbuf, -⟩ := writeReg_frame s v r
      exact keepsWritten_of_buf_eq hbuf
    · exact keepsWritten_of_writeList rfl

/-- Settles O60: the engine and the host store in BUF only by `Memory.writeList`, which unwrites nothing. -/
theorem writtenBytesStayWritten : Obligations.WrittenBytesStayWritten := by
  intro s t hreset h
  rcases step_turn s with ⟨rest, hs⟩ | ⟨rest, tr, hs⟩ | ⟨rest, hi, -⟩
  · rw [hs] at h
    exact engineStep_keepsWritten (s := { s with inputs := rest }) h
  · rw [hs] at h
    exact serve_keepsWritten (s := { s with inputs := rest }) h
  · exact absurd hi (hreset rest)

end Sys2Proof.Machine
end

section
/-! PROOFS. The decoder's verdict on a CMD word: the two cases of R93, or the one command whose encoding the
word is (R90 to R94); and what the engine does with an illegal word (R115). -/

namespace Sys2Proof

/-! ## The fields of a word and the checks of R93 -/

/-- A field of a word, read as a number. -/
theorem field_eq_iff (w : Word) (lo : Nat) (b : Byte) :
    w.extractLsb' lo 8 = b ↔ w.toNat / 2 ^ lo % 2 ^ 8 = b.toNat := by
  rw [← BitVec.toNat_inj, toNat_field]

theorem toNat_opcField (w : Word) : (opcField w).toNat = w.toNat % 256 := by
  simp [opcField]

theorem rsvField_eq_zero_iff (w : Word) : rsvField w = 0#8 ↔ w.toNat / 2 ^ 24 = 0 := by
  have := w.isLt
  rw [rsvField, field_eq_iff, BitVec.toNat_zero]
  omega

/-- R93 case 2 for every command but DADD: SYM, LEN and RSV are all unused. -/
theorem unusedFieldsZero_plain {w : Word} (h : opcField w ≠ 0x21#8) :
    unusedFieldsZero w = true ↔ symField w = 0#8 ∧ lenField w = 0#8 ∧ rsvField w = 0#8 := by
  have hopc : w.toNat % 256 ≠ 0x21 := by
    rw [← toNat_opcField]
    exact BitVec.toNat_ne.1 h
  rw [unusedFieldsZero, if_neg hopc, beq_iff_eq, rsvField_eq_zero_iff, symField, lenField, field_eq_iff,
    field_eq_iff, BitVec.toNat_zero]
  omega

/-- R93 case 2 for DADD: only RSV is unused. -/
theorem unusedFieldsZero_dadd {w : Word} (h : opcField w = 0x21#8) :
    unusedFieldsZero w = true ↔ rsvField w = 0#8 := by
  have hopc : w.toNat % 256 = 0x21 := by
    rw [← toNat_opcField, h]
    rfl
  rw [unusedFieldsZero, if_pos hopc, beq_iff_eq, rsvField_eq_zero_iff]

/-- The check of R93 case 1 looks OPC up in the map. -/
theorem opcodeListed_eq (w : Word) : opcodeListed w = opcodeMap.contains (opcField w).toNat := by
  rw [opcodeListed, toNat_opcField]

/-- Every command's OPC is in the map (R91). -/
theorem opcodeListed_of_opcodeOf {w : Word} {i : Instr} (h : opcField w = opcodeOf i) :
    opcodeListed w = true := by
  rw [opcodeListed_eq, h]
  cases i <;> rfl

/-- Only DADD has operands in its word (R90). -/
theorem operands_eq_zero {i : Instr} (h : opcodeOf i ≠ 0x21#8) : symOf i = 0#8 ∧ lenOf i = 0#8 := by
  cases i with
  | dadd sym len => exact absurd rfl h
  | nop | sreset | wclear | build | gen | dclear | pack | unpack => exact ⟨rfl, rfl⟩

/-- A word whose fields are a command's is that command's encoding (R90, R91). -/
theorem eq_encode {w : Word} {i : Instr} (hopc : opcField w = opcodeOf i) (hsym : symField w = symOf i)
    (hlen : lenField w = lenOf i) (hrsv : rsvField w = 0#8) : w = encode i := by
  rw [encode, ← hopc, ← hsym, ← hlen, ← hrsv, formatF0_fields]

/-! ## The verdict -/

/-- What the decoder may answer on w: rejection by the name of its case of R93, or the command whose
encoding w is. -/
inductive Verdict (w : Word) : Except Illegal Instr → Prop where
  | reserved (hopc : opcodeListed w = false) : Verdict w (.error (.reservedOpcode (opcField w)))
  | unused (hopc : opcodeListed w = true) (hfields : unusedFieldsZero w = false) :
      Verdict w (.error (.unusedFieldNotZero (opcField w)))
  | command {i : Instr} (hopc : opcodeListed w = true) (hfields : unusedFieldsZero w = true)
      (hw : w = encode i) : Verdict w (.ok i)

theorem decodePlain_verdict {w : Word} {i : Instr} (hopc : opcField w = opcodeOf i)
    (hplain : opcodeOf i ≠ 0x21#8) : Verdict w (decodePlain w i) := by
  have hunused := unusedFieldsZero_plain (hopc ▸ hplain)
  obtain ⟨hsym, hlen⟩ := operands_eq_zero hplain
  unfold decodePlain
  split
  next h =>
    obtain ⟨hs, hl, hr⟩ := h
    exact .command (opcodeListed_of_opcodeOf hopc) (hunused.2 ⟨hs, hl, hr⟩)
      (eq_encode hopc (hs.trans hsym.symm) (hl.trans hlen.symm) hr)
  next h => exact .unused (opcodeListed_of_opcodeOf hopc) (Bool.eq_false_iff.2 (mt hunused.1 h))

theorem decodeDadd_verdict {w : Word} (hopc : opcField w = 0x21#8) : Verdict w (decodeDadd w) := by
  have hunused := unusedFieldsZero_dadd hopc
  have hlisted := opcodeListed_of_opcodeOf (i := .dadd (symField w) (lenField w)) hopc
  unfold decodeDadd
  split
  next h => exact .command hlisted (hunused.2 h) (eq_encode hopc rfl rfl h)
  next h => exact .unused hlisted (Bool.eq_false_iff.2 (mt hunused.1 h))

/-- The decoder's answer on every word, along the opcode map of R91. -/
theorem decode_verdict (w : Word) : Verdict w (decode w) := by
  unfold decode
  dsimp only
  split
  next h00 => exact decodePlain_verdict h00 (by decide)
  split
  next h01 => exact decodePlain_verdict h01 (by decide)
  split
  next h02 => exact decodePlain_verdict h02 (by decide)
  split
  next h10 => exact decodePlain_verdict h10 (by decide)
  split
  next h11 => exact decodePlain_verdict h11 (by decide)
  split
  next h20 => exact decodePlain_verdict h20 (by decide)
  split
  next h21 => exact decodeDadd_verdict h21
  split
  next h30 => exact decodePlain_verdict h30 (by decide)
  split
  next h31 => exact decodePlain_verdict h31 (by decide)
  refine .reserved ?_
  simp only [opcodeListed_eq, opcodeMap, List.contains_eq_mem, decide_eq_false_iff_not, List.mem_cons,
    List.not_mem_nil, or_false]
  bv_omega

/-! ## Decoding and encoding -/

/-- The encoder's word decodes to its command: every field is where the decoder reads it (R90, R91). -/
theorem decode_encode (i : Instr) : decode (encode i) = .ok i := by
  cases i with
  | dadd sym len => simp [decode, decodeDadd, encode, opcodeOf, symOf, lenOf]
  | nop | sreset | wclear | build | gen | dclear | pack | unpack => rfl

theorem eq_encode_of_decode {w : Word} {i : Instr} (h : decode w = .ok i) : w = encode i := by
  cases h ▸ decode_verdict w with
  | command _ _ hw => exact hw

/-- Settles O1: the decoder answers only the command whose encoding the word is, and reads every encoding. -/
theorem decodeIffEncode : Obligations.DecodeIffEncode :=
  fun i _ => ⟨eq_encode_of_decode, fun hw => hw ▸ decode_encode i⟩

/-- Settles O2: the three verdicts exclude each other, so each rejection comes exactly in its case. -/
theorem illegalWordsAreRejected : Obligations.IllegalWordsAreRejected := by
  intro w
  have hv := decode_verdict w
  generalize decode w = r at hv
  cases hv with
  | reserved hopc => simp [hopc]
  | unused hopc hfields => simp [hopc, hfields]
  | command hopc hfields _ => simp [hopc, hfields]

/-- The spec's illegal word: BUILD's OPC with SYM = 1 (R93). -/
theorem decode_build_with_sym : decode 0x00000110#32 = .error (.unusedFieldNotZero 0x10#8) := by
  obtain ⟨-, hunused⟩ := illegalWordsAreRejected 0x00000110#32
  exact hunused.1 ⟨by decide, by decide⟩

/-- Settles O3: seven of the words are encodings, and the eighth is illegal. -/
theorem specWordsDecode : Obligations.SpecWordsDecode :=
  ⟨decode_encode .nop, decode_encode .sreset, decode_encode .build, decode_encode .gen,
    decode_encode (.dadd 0x43#8 3#8), decode_encode .pack, decode_encode .unpack,
    decode_build_with_sym⟩

/-- The decoder rejects every word that R93 calls illegal. -/
theorem decode_illegal {w : Word} (h : legalWord w = false) : ∃ r, decode w = .error r := by
  cases hd : decode w with
  | error r => exact ⟨r, rfl⟩
  | ok i =>
    cases hd ▸ decode_verdict w with
    | command hopc hfields _ => simp [legalWord, hopc, hfields] at h

end Sys2Proof

namespace Sys2Proof.Machine

/-- The engine's turn on an illegal word raises IllegalCommand with the word (R115). -/
theorem engineStep_illegal {s : State} {e : Engine} (he : s.engine = some e)
    (hw : legalWord e.cmd = false) : engineStep s = .next (Failed s .illegalCommand e.cmd) := by
  obtain ⟨r, hd⟩ := decode_illegal hw
  simp only [engineStep, he, hd]
  rfl

/-- Settles O7: both steps are the engine's turn. -/
theorem illegalCommandRaises : Obligations.IllegalCommandRaises := by
  refine fun s e he hw => ⟨fun rest hi => ?_, fun hi => ?_⟩
  · rw [step_eq, hi]
    exact engineStep_illegal he hw
  · rw [step_eq, hi]
    exact engineStep_illegal he hw

end Sys2Proof.Machine
end

section
/-! PROOFS. The life of a command: a CMD write is rejected or accepted (R110 to R112), and the engine's turn
ends the command by a commit or a raise (R113, R114); NOP and SRESET (R116, R117); and the frames of PACK and
UNPACK, which commit nothing but bytes from ARG2 on and RES0 to RES2 (R170, R185). -/

namespace Sys2Proof.Machine

/-! ## Acceptance -/

/-- Settles O6: the window writes CMD even while a command runs, and the write is `State.issue`, whose
branches are those of R110. -/
theorem cmdWriteAcceptsOrRejects : Obligations.CmdWriteAcceptsOrRejects := by
  intro s w
  have hwrite : hostWrite 0x00010#17 .word w s = .next (s.issue w) :=
    hostWrite_reg (r := .cmd) w rfl (.inr rfl)
  rw [hwrite, State.issue, apply_ite Host.Outcome.next, apply_ite Host.Outcome.next]
  rfl

/-! ## The two ways to end -/

/-- A command that answers has ended: BUSY = 0 and DONE = 1 (R113, R114). -/
theorem exec_next_ended {i : Instr} {s t : State} (h : exec i s = .next t) :
    t.engine = none ∧ t.done = true := by
  rcases exec_next h with ⟨u, -, rfl⟩ | ⟨k, info, -, rfl⟩
  · exact ⟨rfl, rfl⟩
  · exact ⟨rfl, rfl⟩

/-- The engine's turn, when it answers with a command running, has ended the command. -/
theorem engineStep_next_ended {s t : State} (hbusy : s.busy = true) (h : engineStep s = .next t) :
    t.engine = none ∧ t.done = true := by
  rcases engineStep_next h with ⟨hidle, -⟩ | ⟨e, i, -, -, h⟩ | ⟨e, r, -, -, rfl⟩
  · simp [not_busy_iff.2 hidle] at hbusy
  · exact exec_next_ended h
  · exact ⟨rfl, rfl⟩

/-- Settles O8: the engine's turn answers an ended command, faults on an unwritten byte, and is never
refused. -/
theorem engineTurnEndsCommand : Obligations.EngineTurnEndsCommand := by
  intro s hbusy
  cases h : engineStep s with
  | next t =>
    obtain ⟨hidle, hdone⟩ := engineStep_next_ended hbusy h
    exact .inl ⟨t, rfl, not_busy_iff.2 hidle, hdone⟩
  | fault f =>
    obtain ⟨a, rfl, hnone⟩ := engineStep_fault h
    exact .inr ⟨a, rfl, hnone⟩
  | refused x => exact absurd h (engineStep_not_refused s x)

/-- What a command stages records no error: ERR_CODE stays as it was, or is reset to 0 by SRESET. -/
theorem Staged.errCode_eq_none {i : Instr} {s u : State} (h : Staged s i u) (hs : s.errCode = none) :
    u.errCode = none := by
  by_cases hi : i = .sreset
  · subst hi
    cases h
    rfl
  · obtain ⟨-, -, hcode, -⟩ := h.shell hi
    rw [hcode, hs]

/-- Settles O9: a command that committed has recorded no error, so it raised, which is the Failed state. -/
theorem failedCommandChangesNothingElse : Obligations.FailedCommandChangesNothingElse := by
  intro i s t h hs ht
  rcases exec_next h with ⟨u, hu, rfl⟩ | ⟨k, info, -, rfl⟩
  · exact absurd (hu.errCode_eq_none hs) ht
  · exact ⟨k, info, rfl⟩

/-! ## NOP and SRESET -/

/-- Settles O11: NOP commits the state it found. -/
theorem nopCompletes : Obligations.NopCompletes :=
  fun s => (exec_eq .nop s).trans (complete_ok s s)

/-- Settles O12: SRESET commits `sresetStaged`. -/
theorem sresetCompletes : Obligations.SresetCompletes :=
  fun s => (exec_eq .sreset s).trans (complete_ok s (sresetStaged s))

/-! ## The frames of PACK and UNPACK -/

/-- Whether PACK and UNPACK commit or raise, they leave the shell registers, the weights, the tree and the
dictionary alone (R170, R185). -/
theorem exec_packUnpack_frame {i : Instr} {s t : State} (hi : i = .pack ∨ i = .unpack)
    (h : exec i s = .next t) :
    SameShell s t ∧ t.weight = s.weight ∧ SameTree s t ∧ SameDictionary s t ∧ t.engine = none ∧
      t.done = true := by
  have hne : i ≠ .sreset ∧ i ≠ .wclear ∧ i ≠ .build ∧ i ≠ .gen ∧ i ≠ .dclear ∧
      ∀ sym len, i ≠ .dadd sym len := by
    rcases hi with rfl | rfl <;> simp
  obtain ⟨hsreset, hwclear, hbuild, hgen, hdclear, hdadd⟩ := hne
  obtain ⟨hshell, hengine, hdone, -⟩ := commandsKeepShell i s t hsreset h
  obtain ⟨hweight, htree, hdict⟩ := commandsKeepOtherTables i s t h
  exact ⟨hshell, hweight hwclear hsreset, htree hbuild hsreset, hdict hgen hdclear hdadd hsreset, hengine,
    hdone⟩

/-- Settles O30: a PACK that commits has scanned its symbols and stored their payload at ARG2. -/
theorem packFrame : Obligations.PackFrame := by
  intro s t h
  obtain ⟨hshell, hweight, htree, hdict, hengine, hdone⟩ := exec_packUnpack_frame (.inl rfl) h
  refine ⟨hshell, hweight, htree, hdict, hengine, hdone, ?_⟩
  rcases exec_next h with ⟨u, hu, rfl⟩ | ⟨k, info, -, rfl⟩
  · cases hu with
    | pack xs _ _ scan =>
      exact .inr ⟨rfl, rfl, rfl, xs, scan, fun a => Memory.read_writeList_outside⟩
  · exact .inl ⟨k, info, rfl⟩

/-- Settles O34: an UNPACK that commits has read its payload and stored the decoded symbols at ARG2. -/
theorem unpackFrame : Obligations.UnpackFrame := by
  intro s t h
  obtain ⟨hshell, hweight, htree, hdict, hengine, hdone⟩ := exec_packUnpack_frame (.inr rfl) h
  refine ⟨hshell, hweight, htree, hdict, hengine, hdone, ?_⟩
  rcases exec_next h with ⟨u, hu, rfl⟩ | ⟨k, info, -, rfl⟩
  · cases hu with
    | unpack data xs m _ _ _ metadata _ read decoded =>
      exact .inr ⟨rfl, rfl, rfl, data, m, xs, read, bufRead_ok.1 metadata, decoded,
        fun a => Memory.read_writeList_outside⟩
  · exact .inl ⟨k, info, rfl⟩

end Sys2Proof.Machine
end

section
/-! PROOFS. BUILD against its rules: the selection is the minimum of a linear order (R132), so BUILD's merges are
the iterations of HFC's stable-sort loop (R134); each merge puts the lighter child left, and the tree left in
the state is the leaf set's (R133, R135). WCLEAR (R130). -/

namespace Sys2Proof.Machine

/-! ## The selection order -/

/-- No later in the order of R132, on the pair of weight and arena index, or the same entry. -/
def RankLE (arena : List Node) (a b : Nat) : Prop :=
  arenaWeight arena a < arenaWeight arena b ∨ (arenaWeight arena a = arenaWeight arena b ∧ a ≤ b)

theorem RankLE.refl (arena : List Node) (a : Nat) : RankLE arena a a := .inr ⟨rfl, Nat.le_refl a⟩

theorem RankLE.trans {arena : List Node} {a b c : Nat} (hab : RankLE arena a b) (hbc : RankLE arena b c) :
    RankLE arena a c := by
  unfold RankLE at *
  omega

theorem RankLE.antisymm {arena : List Node} {a b : Nat} (hab : RankLE arena a b) (hba : RankLE arena b a) :
    a = b := by
  unfold RankLE at *
  omega

theorem RankLE.weight_le {arena : List Node} {a b : Nat} (h : RankLE arena a b) :
    arenaWeight arena a ≤ arenaWeight arena b := by
  unfold RankLE at h
  omega

/-- Between two entries the order is the one of R132. -/
theorem rankLE_iff_of_ne {arena : List Node} {a b : Nat} (hne : b ≠ a) :
    RankLE arena a b ↔
      arenaWeight arena a < arenaWeight arena b ∨ (arenaWeight arena a = arenaWeight arena b ∧ a < b) := by
  unfold RankLE
  omega

theorem RankLE.of_precedes {arena : List Node} {a b : Nat} (h : precedes arena a b = true) :
    RankLE arena a b := by
  simp only [precedes, Bool.or_eq_true, Bool.and_eq_true, decide_eq_true_eq] at h
  unfold RankLE arenaWeight
  omega

theorem RankLE.of_not_precedes {arena : List Node} {a b : Nat} (h : ¬ precedes arena a b = true) :
    RankLE arena b a := by
  simp only [precedes, Bool.or_eq_true, Bool.and_eq_true, decide_eq_true_eq] at h
  unfold RankLE arenaWeight
  omega

theorem leastFrom_rankLE (arena : List Node) (a : Nat) (as : List Nat) :
    ∀ b ∈ a :: as, RankLE arena (leastFrom arena a as) b := by
  induction as generalizing a with
  | nil =>
    intro b hb
    rw [List.mem_singleton.1 hb]
    exact RankLE.refl arena a
  | cons c cs ih =>
    have hstep := ih (if precedes arena c a then c else a)
    have hmin := hstep _ List.mem_cons_self
    have hbest : RankLE arena (if precedes arena c a then c else a) a ∧
        RankLE arena (if precedes arena c a then c else a) c := by
      split
      case isTrue h => exact ⟨.of_precedes h, .refl arena c⟩
      case isFalse h => exact ⟨.refl arena a, .of_not_precedes h⟩
    intro b hb
    unfold leastFrom
    rcases List.mem_cons.1 hb with rfl | hb
    · exact hmin.trans hbest.1
    · rcases List.mem_cons.1 hb with rfl | hb
      · exact hmin.trans hbest.2
      · exact hstep b (List.mem_cons_of_mem _ hb)

/-- The selection is the minimum of the forest, which the order makes unique (R132). -/
theorem least_eq_some_iff {arena : List Node} {forest : List Nat} {a : Nat} :
    least arena forest = some a ↔ a ∈ forest ∧ ∀ b ∈ forest, RankLE arena a b := by
  cases forest with
  | nil =>
    constructor
    · intro h
      cases h
    · rintro ⟨h, -⟩
      cases h
  | cons c cs =>
    have hmin := leastFrom_rankLE arena c cs
    constructor
    · intro h
      cases h
      exact ⟨leastFrom_mem arena c cs, hmin⟩
    · rintro ⟨ha, hle⟩
      exact congrArg some ((hmin a ha).antisymm (hle _ (leastFrom_mem arena c cs)))

/-! ## HFC's stable-sort loop -/

/-- Entries of equal weight stand in the order of their indices (R134). -/
def TiesAscend (arena : List Node) (work : List Nat) : Prop :=
  work.Pairwise (fun a b => arenaWeight arena a = arenaWeight arena b → a ≤ b)

theorem perm_insertByWeight (arena : List Node) (a : Nat) (l : List Nat) :
    (insertByWeight arena a l).Perm (a :: l) := by
  induction l with
  | nil => exact List.Perm.refl _
  | cons b bs ih =>
    unfold insertByWeight
    split
    case isTrue => exact List.Perm.refl _
    case isFalse => exact (ih.cons b).trans (List.Perm.swap a b bs)

/-- The sort permutes the working list. -/
theorem perm_sortByWeight (arena : List Node) (work : List Nat) : (sortByWeight arena work).Perm work := by
  induction work with
  | nil => exact List.Perm.refl _
  | cons a as ih => exact (perm_insertByWeight arena a _).trans (ih.cons a)

/-- An index that comes before its ties goes to its place in the order of R132. -/
theorem pairwise_insertByWeight {arena : List Node} {a : Nat} {l : List Nat}
    (hties : ∀ b ∈ l, arenaWeight arena a = arenaWeight arena b → a ≤ b) (h : l.Pairwise (RankLE arena)) :
    (insertByWeight arena a l).Pairwise (RankLE arena) := by
  induction l with
  | nil => exact List.pairwise_singleton _ _
  | cons b bs ih =>
    obtain ⟨hhead, htail⟩ := List.pairwise_cons.1 h
    have hab := hties b List.mem_cons_self
    unfold insertByWeight
    split
    case isTrue hle =>
      have hrank : RankLE arena a b := by
        unfold RankLE arenaWeight at *
        omega
      refine List.pairwise_cons.2 ⟨fun c hc => ?_, h⟩
      rcases List.mem_cons.1 hc with rfl | hc
      · exact hrank
      · exact hrank.trans (hhead c hc)
    case isFalse hlt =>
      refine List.pairwise_cons.2 ⟨fun c hc => ?_, ih (fun c hc => hties c (List.mem_cons_of_mem b hc)) htail⟩
      rcases List.mem_cons.1 ((perm_insertByWeight arena a bs).subset hc) with rfl | hc
      · exact .inl (Nat.lt_of_not_le hlt)
      · exact hhead c hc

/-- On a list with ties ascending, the stable sort by weight gives the order of R132. -/
theorem pairwise_sortByWeight {arena : List Node} {work : List Nat} (h : TiesAscend arena work) :
    (sortByWeight arena work).Pairwise (RankLE arena) := by
  induction work with
  | nil => exact List.Pairwise.nil
  | cons a as ih =>
    obtain ⟨hhead, htail⟩ := List.pairwise_cons.1 h
    exact pairwise_insertByWeight (fun b hb => hhead b ((perm_sortByWeight arena as).subset hb)) (ih htail)

/-- A merge of a forest whose elements are known in the selection order takes the first two (R133). -/
theorem mergeOnce_of_perm_ranked {arena : List Node} {forest rest : List Nat} {a b : Nat}
    (hperm : forest.Perm (a :: b :: rest))
    (hranked : (a :: b :: rest).Pairwise (RankLE arena)) :
    mergeOnce arena forest =
        (arena ++ [mergeNode arena a b], (forest.erase a).erase b ++ [arena.length]) ∧
      ((forest.erase a).erase b).Perm rest := by
  obtain ⟨ha, htail⟩ := List.pairwise_cons.1 hranked
  have hperm' : (forest.erase a).Perm (b :: rest) := by simpa using hperm.erase a
  have hleast : least arena forest = some a := by
    refine least_eq_some_iff.2 ⟨hperm.symm.subset (by simp), fun c hc => ?_⟩
    rcases List.mem_cons.1 (hperm.subset hc) with rfl | hc
    · exact .refl arena c
    · exact ha c hc
  have hleast' : least arena (forest.erase a) = some b := by
    refine least_eq_some_iff.2 ⟨hperm'.symm.subset (by simp), fun c hc => ?_⟩
    rcases List.mem_cons.1 (hperm'.subset hc) with rfl | hc
    · exact .refl arena c
    · exact (List.pairwise_cons.1 htail).1 c hc
  exact ⟨by simp only [mergeOnce, hleast, hleast'], by simpa using hperm'.erase b⟩

/-- The state of BUILD's merges and that of HFC's loop: one arena, and a working list that holds the forest
with ties in ascending order (R134). -/
structure SameForest (build stable : List Node × List Nat) : Prop where
  arena : build.1 = stable.1
  forest : build.2.Perm stable.2
  bound : ∀ i ∈ stable.2, i < stable.1.length
  ties : TiesAscend stable.1 stable.2

/-- A new entry at the end of the arena and of the working list keeps ties ascending: no index in the list
is larger. -/
theorem tiesAscend_append {arena : List Node} {rest : List Nat} (n : Node)
    (hties : TiesAscend arena rest) (hbound : ∀ i ∈ rest, i < arena.length) :
    TiesAscend (arena ++ [n]) (rest ++ [arena.length]) := by
  refine List.pairwise_append.2 ⟨?_, List.pairwise_singleton _ _, ?_⟩
  · refine hties.imp_of_mem fun {i j} hi hj htie => ?_
    unfold arenaWeight at *
    rwa [arenaAt_append_left _ _ (hbound i hi), arenaAt_append_left _ _ (hbound j hj)]
  · intro i hi j hj _
    rw [List.mem_singleton.1 hj]
    exact Nat.le_of_lt (hbound i hi)

/-- A list in the selection order has ties ascending. -/
theorem tiesAscend_of_ranked {arena : List Node} {l : List Nat}
    (h : l.Pairwise (RankLE arena)) : TiesAscend arena l := by
  refine h.imp fun {i j} hij htie => ?_
  unfold RankLE at hij
  omega

/-- A forest of fewer than two elements has nothing to merge. -/
theorem mergeOnce_of_length_lt (arena : List Node) {forest : List Nat} (h : forest.length < 2) :
    mergeOnce arena forest = (arena, forest) := by
  match forest with
  | [] => rfl
  | [a] => simp [mergeOnce, least, leastFrom]

/-- One iteration of HFC's loop is one merge of BUILD (R134). -/
theorem SameForest.once {build stable : List Node × List Nat} (same : SameForest build stable) :
    SameForest (mergeOnce build.1 build.2) (stableOnce stable.1 stable.2) := by
  obtain ⟨arena, forest⟩ := build
  obtain ⟨arena', work⟩ := stable
  obtain ⟨rfl, hforest, hbound, hties⟩ := same
  dsimp only at hforest hbound hties ⊢
  have hsort := perm_sortByWeight arena work
  have hranked := pairwise_sortByWeight hties
  have hperm := hforest.trans hsort.symm
  unfold stableOnce
  split
  next a b rest heq =>
    rw [heq] at hperm hranked hsort
    obtain ⟨hmerge, hrest⟩ := mergeOnce_of_perm_ranked hperm hranked
    have hlt : ∀ i ∈ rest, i < arena.length := fun i hi => hbound i (hsort.subset (by simp [hi]))
    have hrestRanked := hranked.sublist (l₁ := rest) (by simp)
    rw [hmerge]
    refine ⟨rfl, hrest.append_right _, fun i hi => ?_,
      tiesAscend_append _ (tiesAscend_of_ranked hrestRanked) hlt⟩
    rw [List.length_append, List.length_singleton]
    rcases List.mem_append.1 hi with hi | hi
    · exact Nat.lt_succ_of_lt (hlt i hi)
    · exact Nat.lt_succ_of_le (Nat.le_of_eq (List.mem_singleton.1 hi))
  next hshort =>
    have hlen : forest.length < 2 := by
      rw [hperm.length_eq]
      match hs : sortByWeight arena work with
      | [] => simp
      | [a] => simp
      | a :: b :: rest => exact absurd hs (hshort a b rest)
    rw [mergeOnce_of_length_lt arena hlen]
    exact ⟨rfl, hforest, hbound, hties⟩

theorem SameForest.many {build stable : List Node × List Nat} (same : SameForest build stable) (k : Nat) :
    SameForest (mergeMany k build) (stableMany k stable) := by
  induction k generalizing build stable with
  | zero => exact same
  | succ k ih => exact ih same.once

/-- Before the first merge, both hold the leaves in the order of R131. -/
theorem sameForest_leaves (leaves : List Node) :
    SameForest (leaves, List.range leaves.length) (leaves, List.range leaves.length) where
  arena := rfl
  forest := List.Perm.refl _
  bound _ hi := List.mem_range.1 hi
  ties := by
    refine List.Pairwise.imp ?_ List.pairwise_lt_range
    exact fun hij _ => Nat.le_of_lt hij

/-- BUILD's arena is that of HFC's literal loop (R134). -/
theorem buildArena_eq_stableArena (weight : Vector Word 256) : buildArena weight = stableArena weight :=
  ((sameForest_leaves _).many _).arena

/-! ## The lighter child on the left -/

/-- In the entries of an arena from n on, the left child is at most as heavy as the right one (R135). -/
def LighterLeft (arena : List Node) (n : Nat) : Prop :=
  ∀ j, n ≤ j → j < arena.length →
    arenaWeight arena (arenaAt arena j).left.toNat ≤ arenaWeight arena (arenaAt arena j).right.toNat

theorem mergeNode_left_toNat (arena : List Node) {a : Nat} (b : Nat) (ha : a < 512) :
    (mergeNode arena a b).left.toNat = a := by
  rw [mergeNode, BitVec.toNat_ofNat, Nat.mod_eq_of_lt ha]

theorem mergeNode_right_toNat (arena : List Node) (a : Nat) {b : Nat} (hb : b < 512) :
    (mergeNode arena a b).right.toNat = b := by
  rw [mergeNode, BitVec.toNat_ofNat, Nat.mod_eq_of_lt hb]

/-- A merge puts the lighter of its two nodes left: it selected that one first. -/
theorem ForestInv.lighterLeft_mergeOnce {leaves arena : List Node} {forest : List Nat}
    (inv : ForestInv leaves arena forest) (hsize : 2 * leaves.length ≤ 512) (h2 : 2 ≤ forest.length)
    (hlight : LighterLeft arena leaves.length) :
    LighterLeft (mergeOnce arena forest).1 leaves.length := by
  obtain ⟨a, b, rest, hleast, hleast', hperm, heq⟩ := mergeOnce_eq arena h2
  have hcount := inv.length_forest
  have hn := inv.leavesFirst.length_le
  have ha : a < arena.length := inv.lt_of_mem (hperm.symm.subset (by simp))
  have hb : b < arena.length := inv.lt_of_mem (hperm.symm.subset (by simp))
  have hle : arenaWeight arena a ≤ arenaWeight arena b :=
    ((least_eq_some_iff.1 hleast).2 b (hperm.symm.subset (by simp))).weight_le
  rw [heq]
  intro j hge hlt
  rcases Nat.lt_succ_iff_lt_or_eq.1 (by simpa using hlt) with hlt | rfl
  · obtain ⟨-, -, hleft, hright, -⟩ := inv.internal j hge hlt
    have hj := hlight j hge hlt
    unfold arenaWeight at *
    rwa [arenaAt_append_left _ _ hlt, arenaAt_append_left _ _ (Nat.lt_trans hleft hlt),
      arenaAt_append_left _ _ (Nat.lt_trans hright hlt)]
  · unfold arenaWeight at *
    rwa [arenaAt_append_self, mergeNode_left_toNat _ _ (by omega), mergeNode_right_toNat _ _ (by omega),
      arenaAt_append_left _ _ ha, arenaAt_append_left _ _ hb]

theorem ForestInv.lighterLeft_mergeMany {leaves : List Node} (hsize : 2 * leaves.length ≤ 512)
    (htotal : (leaves.map (·.weight.toNat)).sum < 2 ^ 40) {k : Nat} {st : List Node × List Nat}
    (inv : ForestInv leaves st.1 st.2) (hk : k < st.2.length) (hlight : LighterLeft st.1 leaves.length) :
    LighterLeft (mergeMany k st).1 leaves.length := by
  induction k generalizing st with
  | zero => exact hlight
  | succ k ih =>
    obtain ⟨inv', -, hforest⟩ := inv.of_mergeOnce hsize htotal (by omega)
    exact ih inv' (by omega) (inv.lighterLeft_mergeOnce hsize (by omega) hlight)

theorem lighterLeft_buildArena {weight : Vector Word 256} (h2 : 2 ≤ (leafSet weight).length) :
    LighterLeft (buildArena weight) (leafSet weight).length := by
  have hle := length_leafSet_le weight
  have hlen : ((leafSet weight).map (leafNode weight)).length = (leafSet weight).length :=
    List.length_map _
  rw [← hlen]
  exact ForestInv.lighterLeft_mergeMany (by omega) (sum_leafNode_lt weight) (forestInv_leaves _)
    (by simp only [List.length_range]; omega) (fun j hge hlt => absurd hlt (by dsimp only; omega))

/-! ## The weight of the leaves -/

/-- The leaf set is the symbols with a non-zero weight (R131). -/
theorem mem_leafSet {weight : Vector Word 256} {x : Byte} :
    x ∈ leafSet weight ↔ tableGet weight x ≠ 0#32 := by
  simp [leafSet, mem_symbols]

theorem leafNode_weight_toNat (weight : Vector Word 256) (x : Byte) :
    (leafNode weight x).weight.toNat = (tableGet weight x).toNat := by
  have := (tableGet weight x).isLt
  simp only [leafNode, BitVec.toNat_setWidth]
  omega

/-- A symbol outside the leaf set weighs nothing, so the leaves have all the weight (R135). -/
theorem sum_leafNode_weight (weight : Vector Word 256) :
    (((leafSet weight).map (leafNode weight)).map (·.weight.toNat)).sum =
      (symbols.map (fun x => (tableGet weight x).toNat)).sum := by
  simp only [List.map_map, Function.comp_def, leafNode_weight_toNat, leafSet]
  induction symbols with
  | nil => rfl
  | cons x xs ih =>
    rw [List.filter_cons, List.map_cons, List.sum_cons, ← ih]
    split
    case isTrue => rfl
    case isFalse h =>
      have hzero : tableGet weight x = 0#32 := by simpa using h
      simp [hzero]

/-! ## BUILD's completion -/

theorem exec_build {s : State} (h2 : 2 ≤ (leafSet s.weight).length) :
    exec .build s = .next (buildStaged s).commit := by
  have hbody : buildBody s = .ok (buildStaged s) := if_neg (Nat.not_lt.2 h2)
  rw [exec_eq, body, hbody, complete_ok]

/-- BUILD answers one next state. -/
theorem eq_of_exec_build {s t : State} (h2 : 2 ≤ (leafSet s.weight).length) (h : exec .build s = .next t) :
    t = (buildStaged s).commit := by
  rw [exec_build h2] at h
  exact (Host.Outcome.next.inj h).symm

section
variable {s : State} (h2 : 2 ≤ (leafSet s.weight).length)
include h2

theorem hasTree_build : HasTree (buildStaged s).commit := hasTree_buildStaged h2

/-- The node table that BUILD leaves holds its arena (R133). -/
theorem nodeAt_build (i : Nat) : (buildStaged s).commit.nodeAt i = arenaAt (buildArena s.weight) i := by
  have hle := length_leafSet_le s.weight
  have hsize := (forestInv_buildArena h2).2
  exact nodeAt_nodeTable (by omega) (State.commit_node (buildStaged s)) i

theorem nodeAt_build_leaf {i : Nat} (h : i < (leafSet s.weight).length) :
    (buildStaged s).commit.nodeAt i = leafNode s.weight (leafSet s.weight)[i] :=
  (nodeAt_build h2 i).trans (arenaAt_buildArena_leaf h2 h)

theorem nodeAt_build_empty {i : Nat} (h : 2 * (leafSet s.weight).length - 1 ≤ i) :
    (buildStaged s).commit.nodeAt i = Node.empty := by
  rw [← (forestInv_buildArena h2).2] at h
  rw [nodeAt_build h2, arenaAt, List.getD_eq_getElem?_getD, List.getElem?_eq_none h, Option.getD_none]

omit h2 in
theorem leafCount_build : (buildStaged s).commit.leafCount.toNat = (leafSet s.weight).length := by
  have hle := length_leafSet_le s.weight
  rw [State.commit_leafCount, buildStaged, BitVec.toNat_ofNat]
  omega

/-- The root has the weight of all symbols (R135 item 1). -/
theorem root_weight_build :
    ((buildStaged s).commit.nodeAt (buildStaged s).commit.root.toNat).weight.toNat =
      (symbols.map (fun x => (tableGet s.weight x).toNat)).sum := by
  obtain ⟨-, -, -, -, hroot, -⟩ := hasTree_build h2
  have hweight := (forestInv_buildArena h2).1.weight
  rw [hroot, leafCount_build, nodeAt_build h2, ← sum_leafNode_weight, ← hweight]
  rfl

/-- The leaves are the leaf set's, in its order (R135 item 2). -/
theorem leafSymbols_build :
    (List.range (buildStaged s).commit.leafCount.toNat).map
      (fun i => ((buildStaged s).commit.nodeAt i).symbol) = leafSet s.weight := by
  rw [leafCount_build]
  refine List.ext_getElem (by simp) fun i _ hi => ?_
  rw [List.getElem_map, List.getElem_range, nodeAt_build_leaf h2 hi, leafNode]

/-- Each leaf has the weight of its symbol (R135 item 2). -/
theorem leafWeight_build {i : Nat} (h : i < (buildStaged s).commit.leafCount.toNat) :
    ((buildStaged s).commit.nodeAt i).weight.toNat =
      (tableGet s.weight ((buildStaged s).commit.nodeAt i).symbol).toNat := by
  rw [leafCount_build] at h
  rw [nodeAt_build_leaf h2 h, leafNode_weight_toNat, leafNode]

/-- In each merge the lighter node went left (R135 item 5). -/
theorem lighterLeft_build {j : Nat} (hlt : j < (buildStaged s).commit.nodeCount.toNat)
    (hge : (buildStaged s).commit.leafCount.toNat ≤ j) :
    ((buildStaged s).commit.nodeAt ((buildStaged s).commit.nodeAt j).left.toNat).weight.toNat ≤
      ((buildStaged s).commit.nodeAt ((buildStaged s).commit.nodeAt j).right.toNat).weight.toNat := by
  obtain ⟨-, -, -, hcount, -⟩ := hasTree_build h2
  rw [hcount, leafCount_build, ← (forestInv_buildArena h2).2] at hlt
  rw [leafCount_build] at hge
  rw [nodeAt_build h2, nodeAt_build h2, nodeAt_build h2]
  exact lighterLeft_buildArena h2 j hge hlt

end

/-! ## Settled -/

/-- Settles O13: WCLEAR commits a weight table of zeros. -/
theorem wclearCompletes : Obligations.WclearCompletes :=
  fun s => ⟨(wclearStaged s).commit, exec_eq .wclear s, fun x => tableGet_replicate x 0#32, rfl⟩

/-- Settles O15. -/
theorem leafSetIsNonzeroAscending : Obligations.LeafSetIsNonzeroAscending :=
  fun weight => ⟨fun _ => mem_leafSet, pairwise_leafSet weight⟩

/-- Settles O16: the selection is the minimum of the order of R132, which is strict between two indices. -/
theorem leastPrecedesAllOthers : Obligations.LeastPrecedesAllOthers := by
  intro arena forest a _
  rw [least_eq_some_iff]
  refine and_congr_right fun _ => ⟨fun h b hb hne => (rankLE_iff_of_ne hne).1 (h b hb), fun h b hb => ?_⟩
  by_cases heq : b = a
  · rw [heq]
    exact RankLE.refl arena a
  · exact (rankLE_iff_of_ne heq).2 (h b hb heq)

/-- Settles O17: the detail word is the same number for each of the two counts. -/
theorem buildRefusesFewerThanTwoLeaves : Obligations.BuildRefusesFewerThanTwoLeaves := by
  intro s hfew
  have hinfo : ∀ n < 2, infoInvalidInput 1#8 0#8 (BitVec.ofNat 8 n) =
      0x01000000#32 ||| BitVec.ofNat 32 n := by
    decide
  rw [exec_eq, body, buildBody, if_pos hfew, complete_raise, hinfo _ hfew]
  rfl

/-- Settles O18: BUILD commits `buildStaged`, whose node table holds the leaves, the merges and no more. -/
theorem buildCompletes : Obligations.BuildCompletes :=
  fun s h2 => ⟨(buildStaged s).commit, exec_build h2, rfl, rfl, rfl, fun _ h => nodeAt_build_leaf h2 h,
    fun _ h => nodeAt_build_empty h2 h, rfl⟩

/-- Settles O19: BUILD leaves a tree, and the invariant of its merges gives the weights; a path to a leaf of a
tree has 1 to n − 1 bits. -/
theorem buildTreeProperties : Obligations.BuildTreeProperties := by
  intro s t h2 h
  obtain rfl := eq_of_exec_build h2 h
  refine ⟨hasTree_build h2, root_weight_build h2, leafSymbols_build h2, fun i => leafWeight_build h2, ?_,
    fun j => lighterLeft_build h2⟩
  intro c j hpath hleaf
  obtain ⟨hpos, hshort, -⟩ := leafPath_length (hasTree_build h2) ⟨j, hpath, hleaf, rfl⟩
  rw [leafCount_build] at hshort
  exact ⟨hpos, by omega⟩

/-- Settles O20: an iteration of HFC's loop is a merge of BUILD, so the arenas are one, and the node table
holds it. -/
theorem buildIsStableSortLoop : Obligations.BuildIsStableSortLoop := by
  refine ⟨buildArena_eq_stableArena, fun s t h2 h i => ?_⟩
  obtain rfl := eq_of_exec_build h2 h
  rw [nodeAt_build h2, buildArena_eq_stableArena]

end Sys2Proof.Machine
end

section
/-! PROOFS. The walk of a tree is complete: within its bound of 511 pops it meets every leaf once, with its path
from the root (R37, R150, R237). -/

namespace Sys2Proof.Machine

/-! ## The walk of a subtree -/

@[simp] theorem follow_cons (s : State) (i : Nat) (b : Bool) (c : Bits) :
    s.follow i (b :: c) = if (s.nodeAt i).leaf then none else s.follow (s.childAt i b) c := rfl

@[simp] theorem walk_nil (s : State) (fuel : Nat) : walk s fuel [] = [] := by
  cases fuel <;> rfl

/-- From entry i and the code c, a walk pops the whole subtree and gives the entries es, the code c put before
theirs: 2n − 1 pops for its n leaves (R150). The codes of es lead from i to every leaf below it. -/
structure WalkGives (s : State) (i : Nat) (es : List (Byte × Bits)) : Prop where
  nonempty : 1 ≤ es.length
  gives : ∀ fuel c stack, walk s (2 * es.length - 1 + fuel) ((i, c) :: stack) =
    es.map (fun e => (e.1, c ++ e.2)) ++ walk s fuel stack
  complete : ∀ d j, s.follow i d = some j → (s.nodeAt j).leaf = true → ((s.nodeAt j).symbol, d) ∈ es

theorem walkGives_leaf {s : State} {i : Nat} (hleaf : (s.nodeAt i).leaf = true) :
    WalkGives s i [((s.nodeAt i).symbol, [])] where
  nonempty := Nat.le_refl 1
  gives fuel c stack := by
    rw [List.length_singleton, show 2 * 1 - 1 + fuel = fuel + 1 by omega, walk]
    simp [hleaf]
  complete d j hfollow _ := by
    cases d with
    | nil =>
      cases hfollow
      exact List.mem_singleton.2 rfl
    | cons b d => simp [hleaf] at hfollow

/-- The entries of the two subtrees, the left ones first. -/
theorem walkGives_internal {s : State} {i : Nat} {ls rs : List (Byte × Bits)}
    (hleaf : (s.nodeAt i).leaf = false) (left : WalkGives s (s.childAt i false) ls)
    (right : WalkGives s (s.childAt i true) rs) :
    WalkGives s i (ls.map (fun e => (e.1, false :: e.2)) ++ rs.map (fun e => (e.1, true :: e.2))) where
  nonempty := by
    have := left.nonempty
    rw [List.length_append, List.length_map]
    omega
  gives fuel c stack := by
    have hl := left.nonempty
    have hr := right.nonempty
    have hfuel : 2 * (ls.length + rs.length) - 1 + fuel =
        (2 * ls.length - 1 + (2 * rs.length - 1 + fuel)) + 1 := by omega
    have hpush : ∀ n, walk s (n + 1) ((i, c) :: stack) =
        walk s n ((s.childAt i false, c ++ [false]) :: (s.childAt i true, c ++ [true]) :: stack) := by
      intro n
      simp [walk, hleaf, State.childAt]
    rw [List.length_append, List.length_map, List.length_map, hfuel, hpush, left.gives, right.gives]
    simp [Function.comp_def]
  complete d j hfollow hj := by
    cases d with
    | nil =>
      cases hfollow
      rw [hleaf] at hj
      cases hj
    | cons b d =>
      have hchild : s.follow (s.childAt i b) d = some j := by simpa [hleaf] using hfollow
      cases b with
      | false => simpa using left.complete d j hchild hj
      | true => simpa using right.complete d j hchild hj

/-! ## The walk of the tree -/

section
variable {s : State} (tree : HasTree s)
include tree

/-- Children come before their parent, so every node of a tree has a walk of its subtree (R37 item 3). -/
theorem exists_walkGives {i : Nat} (hi : i < s.nodeCount.toNat) : ∃ es, WalkGives s i es := by
  induction i using Nat.strongRecOn with
  | ind i ih =>
    cases hleaf : (s.nodeAt i).leaf with
    | true => exact ⟨_, walkGives_leaf hleaf⟩
    | false =>
      have hchild := childAt_lt tree hi hleaf
      obtain ⟨ls, left⟩ := ih _ (hchild false) (Nat.lt_trans (hchild false) hi)
      obtain ⟨rs, right⟩ := ih _ (hchild true) (Nat.lt_trans (hchild true) hi)
      exact ⟨_, walkGives_internal hleaf left right⟩

theorem root_lt_nodeCount : s.root.toNat < s.nodeCount.toNat :=
  lt_nodeCount_of_follow tree (c := []) rfl

omit tree in
/-- However long a walk from the root goes on, it meets leaves with their paths (R150). -/
theorem leafPath_of_mem_walk {fuel : Nat} {e : Byte × Bits}
    (h : e ∈ walk s fuel [(s.root.toNat, [])]) : s.LeafPath e.1 e.2 := by
  obtain ⟨i, d, c, j, hmem, hcode, hfollow, hrest⟩ := walk_sound (x := e.1) (c := e.2) h
  cases List.mem_singleton.1 hmem
  rw [List.nil_append] at hcode
  exact ⟨j, hcode ▸ hfollow, hrest⟩

/-- A walk from the root meets no symbol twice: paths that part lead to leaves of different symbols. -/
theorem nodup_walk_symbols (fuel : Nat) : ((walk s fuel [(s.root.toNat, [])]).map Prod.fst).Nodup := by
  have hleft := walk_pairwise_leftOf (s := s) (fuel := fuel) (List.pairwise_singleton _ (s.root.toNat, []))
  refine List.pairwise_map.2 (hleft.imp_of_mem fun {e f} he hf hpart heq => ?_)
  have hpath := leafPath_of_mem_walk hf
  rw [← heq] at hpath
  have hcode := leafPath_unique tree (leafPath_of_mem_walk he) hpath
  exact (leftOf_not_prefix hpart).1 (hcode ▸ List.prefix_refl _)

/-- Every node of a tree is reached from the root: each but the root is the child of an entry after it (R37
items 1 and 3). -/
theorem exists_follow {i : Nat} (hi : i < s.nodeCount.toNat) :
    ∃ c, s.follow s.root.toNat c = some i := by
  obtain ⟨-, -, -, hcount, hroot, -, -, internal, once, -⟩ := id tree
  induction hk : s.root.toNat - i using Nat.strongRecOn generalizing i with
  | ind k ih =>
    by_cases hlast : i = s.root.toNat
    · exact ⟨[], by rw [hlast, State.follow]⟩
    · have hlt : i < s.root.toNat := by omega
      have hmem : i ∈ s.childList := List.count_pos_iff.1 (by rw [once i hlt]; exact Nat.one_pos)
      obtain ⟨p, hp, hchild⟩ := List.mem_flatMap.1 hmem
      obtain ⟨hge, hpn⟩ := mem_drop_range.1 hp
      obtain ⟨hpl, -, hleft, hright, -⟩ := internal p hpn hge
      have hbit : ∃ b, s.childAt p b = i := by
        simp only [List.mem_cons, List.not_mem_nil, or_false] at hchild
        rcases hchild with h | h
        · exact ⟨false, h.symm⟩
        · exact ⟨true, h.symm⟩
      obtain ⟨b, hb⟩ := hbit
      have hip : i < p := hb ▸ childAt_lt tree hpn hpl b
      obtain ⟨c, hc⟩ := ih (s.root.toNat - p) (by omega) hpn rfl
      exact ⟨c ++ [b], follow_concat.2 ⟨p, hc, hpl, hb⟩⟩

end

/-- A list of symbols, each once, is no longer than another that has them all. -/
theorem length_le_of_nodup_subset {xs ys : List Byte} (hxs : xs.Nodup) (hys : ys.Nodup) (h : xs ⊆ ys) :
    xs.length ≤ ys.length := by
  have hperm : xs.Perm (ys.filter (· ∈ xs)) :=
    (List.perm_ext_iff_of_nodup hxs (hys.filter _)).2 fun x => by
      rw [List.mem_filter, decide_eq_true_eq]
      exact ⟨fun hx => ⟨h hx, hx⟩, And.right⟩
  rw [hperm.length_eq]
  exact List.length_filter_le _ _

/-- The symbols of the leaves, in the order of the arena (R37 item 2). -/
def State.leafSymbols (s : State) : List Byte :=
  (List.range s.leafCount.toNat).map (fun i => (s.nodeAt i).symbol)

@[simp] theorem length_leafSymbols (s : State) : s.leafSymbols.length = s.leafCount.toNat := by
  simp [State.leafSymbols]

section
variable {s : State} (tree : HasTree s)
include tree

theorem nodup_leafSymbols : s.leafSymbols.Nodup :=
  List.pairwise_map.2 (List.nodup_range.imp_of_mem fun hi hk hne heq =>
    hne (leafSymbol_injective tree (List.mem_range.1 hi) (List.mem_range.1 hk) heq))

/-- A symbol has a path exactly when a leaf holds it. -/
theorem exists_leafPath_iff {x : Byte} : (∃ c, s.LeafPath x c) ↔ x ∈ s.leafSymbols := by
  obtain ⟨-, -, -, hcount, -, leaves, -⟩ := id tree
  constructor
  · rintro ⟨c, j, hj, hleaf, hx⟩
    have hlt := lt_leafCount_of_leaf tree (lt_nodeCount_of_follow tree hj) hleaf
    exact List.mem_map.2 ⟨j, List.mem_range.2 hlt, hx⟩
  · intro hx
    obtain ⟨i, hi, hx⟩ := List.mem_map.1 hx
    have hi := List.mem_range.1 hi
    obtain ⟨c, hc⟩ := exists_follow tree (i := i) (by omega)
    exact ⟨c, i, hc, (leaves i hi).1, hx⟩

/-- A walk from the root meets at most n leaves. -/
theorem length_walk_le (fuel : Nat) : (walk s fuel [(s.root.toNat, [])]).length ≤ s.leafCount.toNat := by
  have hsub : (walk s fuel [(s.root.toNat, [])]).map Prod.fst ⊆ s.leafSymbols := by
    intro x hx
    obtain ⟨e, he, rfl⟩ := List.mem_map.1 hx
    exact (exists_leafPath_iff tree).1 ⟨e.2, leafPath_of_mem_walk he⟩
  simpa using length_le_of_nodup_subset (nodup_walk_symbols tree fuel) (nodup_leafSymbols tree) hsub

/-- The bound of 511 pops cuts no walk of a tree short: its n ≤ 256 leaves take 2n − 1 pops (R37, R237). -/
theorem walkGives_genEntries : WalkGives s s.root.toNat (genEntries s) := by
  obtain ⟨es, hes⟩ := exists_walkGives tree (root_lt_nodeCount tree)
  have hgives : ∀ fuel, walk s (2 * es.length - 1 + fuel) [(s.root.toNat, [])] = es ++ walk s fuel [] :=
    fun fuel => by simpa using hes.gives fuel [] []
  have hbound : es.length ≤ s.leafCount.toNat := by
    have hle := length_walk_le tree (2 * es.length - 1 + 0)
    rwa [hgives, walk_nil, List.append_nil] at hle
  obtain ⟨-, -, h256, -⟩ := tree
  have hall : genEntries s = es := by
    rw [genEntries, show Config.nNodes = 2 * es.length - 1 + (511 - (2 * es.length - 1)) by
      simp only [Config.nNodes]; omega, hgives, walk_nil, List.append_nil]
  exact hall ▸ hes

/-- GEN's entries are the leaves of the tree with their root paths (R150). -/
theorem mem_genEntries {x : Byte} {c : Bits} : (x, c) ∈ genEntries s ↔ s.LeafPath x c := by
  refine ⟨fun h => leafPath_of_mem_walk h, ?_⟩
  rintro ⟨j, hj, hleaf, rfl⟩
  exact (walkGives_genEntries tree).complete c j hj hleaf

/-- GEN meets each leaf once (R150, R152 item 1). -/
theorem genEntries_symbols_perm : ((genEntries s).map Prod.fst).Perm s.leafSymbols := by
  refine (List.perm_ext_iff_of_nodup (nodup_walk_symbols tree _) (nodup_leafSymbols tree)).2 fun x => ?_
  rw [← exists_leafPath_iff tree, List.mem_map]
  constructor
  · rintro ⟨e, he, rfl⟩
    exact ⟨e.2, leafPath_of_mem_walk he⟩
  · rintro ⟨c, hc⟩
    exact ⟨(x, c), (mem_genEntries tree).2 hc, rfl⟩

theorem length_genEntries : (genEntries s).length = s.leafCount.toNat := by
  simpa using (genEntries_symbols_perm tree).length_eq

end

end Sys2Proof.Machine
end

section
/-! PROOFS. GEN against its rules: the dictionary is the leaves with their root paths (R150), left to right (R151),
one entry a leaf, no code at the front of another, and every bit string starts with one (R152). -/

namespace Sys2Proof.Machine

/-! ## Entries added one after the other -/

theorem toNat_dictCount_addEntries {s : State} {es : List (Byte × Bits)}
    (h : s.dictCount.toNat + es.length ≤ 256) :
    (addEntries s es).dictCount.toNat = s.dictCount.toNat + es.length := by
  induction es generalizing s with
  | nil => rfl
  | cons e es ih =>
    rw [List.length_cons] at h ⊢
    have hcount := toNat_dictCount_addEntry (s := s) (by omega) e.1 e.2
    have hrest := ih (s := s.addEntry e.1 e.2) (by omega)
    rw [hcount] at hrest
    exact hrest.trans (by omega)

/-- The symbols take the next places of the dictionary order, in turn (R150). -/
theorem dictSymbols_addEntries {s : State} {es : List (Byte × Bits)}
    (h : s.dictCount.toNat + es.length ≤ 256) :
    (addEntries s es).dictSymbols = s.dictSymbols ++ es.map Prod.fst := by
  induction es generalizing s with
  | nil => exact (List.append_nil _).symm
  | cons e es ih =>
    rw [List.length_cons] at h
    have hcount := toNat_dictCount_addEntry (s := s) (by omega) e.1 e.2
    have hrest := ih (s := s.addEntry e.1 e.2) (by omega)
    rw [dictSymbols_addEntry (by omega)] at hrest
    exact hrest.trans (by simp)

theorem code_addEntries_of_notMem {s : State} {es : List (Byte × Bits)} {x : Byte}
    (short : ∀ e ∈ es, e.2.length < 256) (hx : x ∉ es.map Prod.fst) :
    (addEntries s es).code x = s.code x := by
  induction es generalizing s with
  | nil => rfl
  | cons e es ih =>
    obtain ⟨he, hes⟩ := List.forall_mem_cons.1 short
    rw [List.map_cons, List.mem_cons, not_or] at hx
    obtain ⟨hne, hx⟩ := hx
    refine (ih (s := s.addEntry e.1 e.2) hes hx).trans ?_
    rw [code_addEntry _ _ _ _ he, if_neg hne]

/-- Of entries with different symbols, each has its code in the end (R150). -/
theorem code_addEntries_of_mem {s : State} {es : List (Byte × Bits)} {e : Byte × Bits}
    (short : ∀ e ∈ es, e.2.length < 256) (nodup : (es.map Prod.fst).Nodup) (he : e ∈ es) :
    (addEntries s es).code e.1 = e.2 := by
  induction es generalizing s with
  | nil => cases he
  | cons f es ih =>
    obtain ⟨hf, hes⟩ := List.forall_mem_cons.1 short
    rw [List.map_cons] at nodup
    obtain ⟨hnotMem, hnodup⟩ := List.nodup_cons.1 nodup
    rcases List.mem_cons.1 he with rfl | he
    · refine (code_addEntries_of_notMem (s := s.addEntry e.1 e.2) hes hnotMem).trans ?_
      rw [code_addEntry _ _ _ _ hf, if_pos rfl]
    · exact ih hes hnodup he

/-! ## GEN's dictionary -/

/-- With a tree GEN commits (R150). -/
theorem exec_gen {s : State} (h : s.treeValid = true) : exec .gen s = .next (genStaged s).commit := by
  rw [exec_eq, body, genBody, if_pos h, complete_ok]

section
variable {s : State} (tree : HasTree s)
include tree

theorem eq_of_exec_gen {t : State} (h : exec .gen s = .next t) : t = (genStaged s).commit := by
  obtain ⟨hvalid, -⟩ := tree
  rw [exec_gen hvalid] at h
  exact (Host.Outcome.next.inj h).symm

/-- GEN starts from an empty dictionary, and a tree's leaves fit it. -/
theorem dictCount_add_genEntries_le : s.clearDictionary.dictCount.toNat + (genEntries s).length ≤ 256 := by
  rw [length_genEntries tree]
  obtain ⟨-, -, h256, -⟩ := tree
  simpa using h256

/-- DICT_COUNT becomes LEAF_COUNT (R150). -/
theorem dictCount_genStaged : (genStaged s).dictCount = s.leafCount := by
  refine BitVec.eq_of_toNat_eq ?_
  rw [genStaged, toNat_dictCount_addEntries (dictCount_add_genEntries_le tree), length_genEntries tree]
  simp

/-- The dictionary order is the order of the walk (R151). -/
theorem dictSymbols_genStaged : (genStaged s).dictSymbols = (genEntries s).map Prod.fst := by
  rw [genStaged, dictSymbols_addEntries (dictCount_add_genEntries_le tree)]
  simp [State.dictSymbols]

theorem code_genStaged {x : Byte} {c : Bits} (h : (x, c) ∈ genEntries s) : (genStaged s).code x = c := by
  refine code_addEntries_of_mem (e := (x, c)) (fun f hf => ?_) (nodup_walk_symbols tree _) h
  obtain ⟨-, -, hshort⟩ := leafPath_length tree (leafPath_of_mem_walk hf)
  omega

/-- A symbol has the code c after GEN exactly when c is its path from the root (R150). -/
theorem hasEntry_code_genStaged_iff {x : Byte} {c : Bits} :
    ((genStaged s).hasEntry x = true ∧ (genStaged s).code x = c) ↔ s.LeafPath x c := by
  rw [← mem_genEntries tree, (dictInv_genStaged tree).hasEntry_iff, dictSymbols_genStaged tree]
  constructor
  · rintro ⟨hx, rfl⟩
    obtain ⟨⟨y, d⟩, h, rfl⟩ := List.mem_map.1 hx
    rw [code_genStaged tree h]
    exact h
  · exact fun h => ⟨List.mem_map.2 ⟨(x, c), h, rfl⟩, code_genStaged tree h⟩

end

/-! ## Complete -/

/-- The first n bits of an infinite bit string. -/
def firstBits (f : Nat → Bool) (n : Nat) : Bits := (List.range n).map f

@[simp] theorem length_firstBits (f : Nat → Bool) (n : Nat) : (firstBits f n).length = n := by
  simp [firstBits]

theorem firstBits_prefix (f : Nat → Bool) {m n : Nat} (h : m ≤ n) : firstBits f m <+: firstBits f n := by
  have htake : firstBits f m = (firstBits f n).take m := by
    rw [firstBits, firstBits, ← List.map_take, List.take_range, Nat.min_eq_left h]
  exact htake ▸ List.take_prefix m _

/-- Every infinite bit string leads from a node of a tree down to a leaf: the tree is full (R152 item 3). -/
theorem exists_follow_leaf {s : State} (tree : HasTree s) {i : Nat} (hi : i < s.nodeCount.toNat)
    (f : Nat → Bool) :
    ∃ n j, s.follow i (firstBits f n) = some j ∧ (s.nodeAt j).leaf = true := by
  induction i using Nat.strongRecOn generalizing f with
  | ind i ih =>
    cases hleaf : (s.nodeAt i).leaf with
    | true => exact ⟨0, i, rfl, hleaf⟩
    | false =>
      have hchild := childAt_lt tree hi hleaf (f 0)
      obtain ⟨n, j, hj, hjl⟩ := ih _ hchild (Nat.lt_trans hchild hi) (fun k => f (k + 1))
      refine ⟨n + 1, j, ?_, hjl⟩
      have hcons : firstBits f (n + 1) = f 0 :: firstBits (fun k => f (k + 1)) n := by
        simp [firstBits, List.range_succ_eq_map, Function.comp_def]
      simpa [hcons, hleaf] using hj

/-- No two codes of a dictionary start one infinite bit string (R36 item 3). -/
theorem DictInv.eq_of_starts {s : State} (h : DictInv s) {f : Nat → Bool} {x y : Byte}
    (hx : s.hasEntry x = true) (hxf : s.code x = firstBits f (s.code x).length)
    (hy : s.hasEntry y = true) (hyf : s.code y = firstBits f (s.code y).length) : y = x := by
  rw [h.hasEntry_iff] at hx hy
  obtain ⟨-, -, -, -, free, -⟩ := h
  rcases Nat.le_total (s.code y).length (s.code x).length with hle | hle
  · exact free y hy x hx (by rw [hyf, hxf]; exact firstBits_prefix f hle)
  · exact (free x hx y hy (by rw [hyf, hxf]; exact firstBits_prefix f hle)).symm

/-! ## Settled -/

/-- Settles O23: the walk meets exactly the leaves, with their paths, and the dictionary holds what it meets. -/
theorem genCodesAreRootPaths : Obligations.GenCodesAreRootPaths := by
  intro s t tree h x c
  obtain rfl := eq_of_exec_gen tree h
  exact hasEntry_code_genStaged_iff tree

/-- Settles O24: a walk meets the leaves left to right, and the dictionary keeps its order. -/
theorem genOrderIsLeftToRight : Obligations.GenOrderIsLeftToRight := by
  intro s t tree h
  obtain rfl := eq_of_exec_gen tree h
  have hsymbols : (genStaged s).commit.dictSymbols = (genEntries s).map Prod.fst := dictSymbols_genStaged tree
  have hcode : ∀ e ∈ genEntries s, (genStaged s).commit.code e.1 = e.2 := fun _ he => code_genStaged tree he
  rw [hsymbols, List.map_map, List.pairwise_map]
  refine (genEntries_pairwise_leftOf s).imp_of_mem fun {e f} he hf hleft => ?_
  rw [Function.comp, Function.comp, hcode e he, hcode f hf]
  exact hleft

/-- Settles O25: the entries are the leaves, each once; paths to two leaves part; and a bit string followed from
the root ends in a leaf, whose code is the only one it starts with. -/
theorem genDictionaryIsComplete : Obligations.GenDictionaryIsComplete := by
  intro s t tree h
  obtain rfl := eq_of_exec_gen tree h
  have hinv : DictInv (genStaged s).commit := dictInv_genStaged tree
  have hsymbols : (genStaged s).commit.dictSymbols = (genEntries s).map Prod.fst := dictSymbols_genStaged tree
  obtain ⟨-, -, -, -, free, -⟩ := id hinv
  refine ⟨hsymbols ▸ genEntries_symbols_perm tree, free, fun f => ?_⟩
  obtain ⟨n, j, hj, hleaf⟩ := exists_follow_leaf tree (root_lt_nodeCount tree) f
  obtain ⟨hentry, hcode⟩ : (genStaged s).commit.hasEntry (s.nodeAt j).symbol = true ∧
      (genStaged s).commit.code (s.nodeAt j).symbol = firstBits f n :=
    (hasEntry_code_genStaged_iff tree).2 ⟨j, hj, hleaf, rfl⟩
  have hstarts : (genStaged s).commit.code (s.nodeAt j).symbol =
      firstBits f ((genStaged s).commit.code (s.nodeAt j).symbol).length := by
    rw [hcode, length_firstBits]
  exact ⟨_, hentry, hstarts, fun y hy hyf => hinv.eq_of_starts hentry hstarts hy hyf⟩

/-- Settles O22: the entries GEN adds are as many as the leaves. -/
theorem genCompletes : Obligations.GenCompletes := by
  intro s hvalid
  exact ⟨(genStaged s).commit, exec_gen hvalid, dictCount_genStaged, congrArg State.commit (genStaged_eq s)⟩

/-- Settles O21. -/
theorem genRefusesMissingTree : Obligations.GenRefusesMissingTree := by
  intro s hvalid
  rw [exec_eq, body, genBody, hvalid]
  rfl

end Sys2Proof.Machine
end

section
/-! PROOFS. DCLEAR (R153), and DADD against its rule: the detail word of its errors (R154, R202) and the staged
code (R22, R35). -/

namespace Sys2Proof.Machine

/-! ## DADD's checks -/

/-- The detail word is its fields put in their places (R202). -/
theorem infoInvalidInput_eq_or (kind sym value : Byte) : infoInvalidInput kind sym value =
    (kind.setWidth 32 <<< 24) ||| (sym.setWidth 32 <<< 8) ||| value.setWidth 32 := by
  have hword : infoInvalidInput kind sym value = wordOfBytes value sym 0#8 kind := by
    simp [infoInvalidInput, wordOfBytes]
  rw [hword, wordOfBytes_eq_or, show ((0#8).setWidth 32 <<< 16 : Word) = 0#32 from rfl, BitVec.or_zero,
    BitVec.or_comm, BitVec.or_comm (value.setWidth 32), ← BitVec.or_assoc]

theorem conflicts_iff {c d : Bits} : conflicts c d = true ↔ c <+: d ∨ d <+: c := by simp [conflicts]

/-- A symbol is the first conflict when its code conflicts and no code before it does (R154). -/
theorem firstConflict_eq_some {s : State} {c : Bits} {k : Nat} (hk : k < s.dictSymbols.length)
    (hat : s.code s.dictSymbols[k] <+: c ∨ c <+: s.code s.dictSymbols[k])
    (hbefore : ∀ x ∈ s.dictSymbols.take k, ¬ s.code x <+: c ∧ ¬ c <+: s.code x) :
    firstConflict s c = some s.dictSymbols[k] := by
  refine List.find?_eq_some_iff_getElem.2 ⟨conflicts_iff.2 hat, k, hk, rfl, fun j hj => ?_⟩
  have hmem : s.dictSymbols[j] ∈ s.dictSymbols.take k :=
    List.mem_take_iff_getElem.2 ⟨j, Nat.lt_min.2 ⟨hj, Nat.lt_trans hj hk⟩, rfl⟩
  simpa [conflicts_iff, Bool.eq_false_iff] using hbefore _ hmem

theorem firstConflict_eq_none {s : State} {c : Bits} :
    firstConflict s c = none ↔ ∀ x ∈ s.dictSymbols, ¬ s.code x <+: c ∧ ¬ c <+: s.code x := by
  simp only [firstConflict, List.find?_eq_none, conflicts_iff, not_or]

/-! ## The staged bits -/

theorem getD_flatMap_bitsOf (ws : List Word) (i : Nat) :
    (ws.flatMap bitsOf).getD i false = (ws.getD (i / 32) 0#32).getMsbD (i % 32) := by
  induction ws generalizing i with
  | nil => simp
  | cons w ws ih =>
    rw [List.flatMap_cons, List.getD_eq_getElem?_getD]
    by_cases hi : i < 32
    · have hlt : i < (bitsOf w).length := by rwa [length_bitsOf]
      rw [List.getElem?_append_left hlt, List.getElem?_eq_getElem hlt, getElem_bitsOf, Option.getD_some,
        Nat.div_eq_of_lt hi, Nat.mod_eq_of_lt hi, List.getD_cons_zero]
    · rw [List.getElem?_append_right (by rw [length_bitsOf]; omega), length_bitsOf,
        ← List.getD_eq_getElem?_getD, ih, show i / 32 = (i - 32) / 32 + 1 by omega, List.getD_cons_succ,
        show (i - 32) % 32 = i % 32 by omega]

/-- Bit i of the staged bits is bit 31 − (i mod 32) of word i div 32 (R22). -/
theorem getD_stageBits (stage : Vector Word 8) {i : Nat} (hi : i < 256) :
    (stageBits stage).getD i false = (stage[i / 32]!).getLsbD (31 - i % 32) := by
  have hword : i / 32 < 8 := by omega
  have hbit : i % 32 < 32 := Nat.mod_lt _ (by decide)
  rw [stageBits, getD_flatMap_bitsOf, BitVec.getMsbD]
  simp [hword, hbit]

/-- The staged code stored left-aligned: its bits are the staged ones, and zeros stand after them (R22, R35). -/
theorem getMsbD_alignLeft_stagedCode (s : State) (len : Byte) (i : Nat) :
    (alignLeft 256 (s.stagedCode len)).getMsbD i =
      if i < len.toNat then (s.operands.stage[i / 32]!).getLsbD (31 - i % 32) else false := by
  have hlen := len.isLt
  by_cases hi : i < 256
  · rw [getMsbD_alignLeft _ hi]
    split
    next h =>
      rw [← getD_stageBits _ hi, State.stagedCode, List.getD_eq_getElem?_getD, List.getElem?_take_of_lt h,
        List.getD_eq_getElem?_getD]
    next h =>
      have hpast : (s.stagedCode len).length ≤ i := by
        rw [length_stagedCode]
        omega
      rw [List.getD_eq_getElem?_getD, List.getElem?_eq_none hpast, Option.getD_none]
  · rw [if_neg (by omega), BitVec.getMsbD]
    simp [hi]

/-! ## DADD's rule, case by case (R154) -/

section
variable {s : State} {sym len : Byte}

theorem daddBody_empty (hlen : len = 0#8) :
    daddBody sym len s = .error (.raise .invalidInput (infoInvalidInput 4#8 sym 0#8)) := if_pos hlen

theorem daddBody_duplicate (hlen : len ≠ 0#8) (hold : tableGet s.codeLen sym ≠ 0#8) :
    daddBody sym len s = .error (.raise .invalidInput (infoInvalidInput 5#8 sym 0#8)) := by
  have hentry : s.hasEntry sym = true := bne_iff_ne.2 hold
  rw [daddBody, if_neg hlen, if_pos hentry]

theorem daddBody_conflict {x : Byte} (hlen : len ≠ 0#8) (hnew : tableGet s.codeLen sym = 0#8)
    (hfirst : firstConflict s (s.stagedCode len) = some x) :
    daddBody sym len s = .error (.raise .invalidInput (infoInvalidInput 6#8 sym x)) := by
  simp [daddBody, State.hasEntry, hlen, hnew, hfirst]

theorem daddBody_free (hlen : len ≠ 0#8) (hnew : tableGet s.codeLen sym = 0#8)
    (hfree : firstConflict s (s.stagedCode len) = none) :
    daddBody sym len s = .ok (s.addEntry sym (s.stagedCode len)) := by
  simp [daddBody, State.hasEntry, hlen, hnew, hfree]

/-- DADD raises the error of its rule. -/
theorem exec_dadd_of_raise {info : Word} (h : daddBody sym len s = .error (.raise .invalidInput info)) :
    exec (.dadd sym len) s = .next (Failed s .invalidInput info) := by
  rw [exec_eq, body, h, complete_raise]
  rfl

end

/-! ## Settled -/

/-- Settles O14: DCLEAR commits tables of zeros. -/
theorem dclearCompletes : Obligations.DclearCompletes :=
  fun s => ⟨s.clearDictionary.commit, exec_eq .dclear s, fun x => ⟨tableGet_replicate x _,
    tableGet_replicate x _, tableGet_replicate x _⟩, rfl⟩

/-- Settles O26: each check is reached when those before it let the entry through, and the detail word puts
kind, symbol and conflicting symbol in their places. -/
theorem daddRefusesBadEntries : Obligations.DaddRefusesBadEntries := by
  intro s sym len
  refine ⟨fun hlen => ?_, fun hlen hold => ?_, fun k hk hlen hnew hat hbefore => ?_⟩
  · rw [exec_dadd_of_raise (daddBody_empty hlen), infoInvalidInput_eq_or]
    simp
  · rw [exec_dadd_of_raise (daddBody_duplicate hlen hold), infoInvalidInput_eq_or]
    simp
  · have hfirst := firstConflict_eq_some hk hat hbefore
    rw [exec_dadd_of_raise (daddBody_conflict hlen hnew hfirst), infoInvalidInput_eq_or]
    simp

/-- Settles O27: DADD's checks let the entry through, and it stores the staged code left-aligned. -/
theorem daddAddsEntry : Obligations.DaddAddsEntry := by
  intro s sym len hlen hnew hcount hfree
  have hbody := daddBody_free hlen hnew (firstConflict_eq_none.2 hfree)
  have hbits := getMsbD_alignLeft_stagedCode s len
  refine ⟨(s.addEntry sym (s.stagedCode len)).commit, by rw [exec_eq, body, hbody, complete_ok], ?_,
    fun i hi => ?_, fun i hi => ?_, fun x hx => ?_, dictSymbols_addEntry hcount sym (s.stagedCode len), rfl, rfl⟩
  · simp [tableGet_tableSet]
  · simp [tableGet_tableSet, hbits, hi]
  · simp [tableGet_tableSet, hbits, Nat.not_lt.2 hi]
  · simp [tableGet_tableSet, hx]

end Sys2Proof.Machine
end

section
/-! PROOFS. The bit packer (R170, R171): the bits of a payload's bytes, PACK's rule check by check, and its
errors and its result. -/

namespace Sys2Proof.Machine

/-! ## The payload -/

/-- Data byte g holds bits 8g to 8g + 7 of the bit string, the first the most significant and zeros past its
end (R73, R170). -/
theorem getMsbD_getElem_packBytes {k g j : Nat} {b : Bits} (hg : g < (packBytes k b).length) (hj : j < 8) :
    (packBytes k b)[g].getMsbD j = b.getD (8 * g + j) false := by
  induction k generalizing g b with
  | zero => simp at hg
  | succ k ih =>
    cases g with
    | zero =>
      calc (alignLeft 8 (b.take 8)).getMsbD j = (b.take 8).getD j false := getMsbD_alignLeft _ hj
        _ = b.getD (8 * 0 + j) false := by simp [List.getElem?_take_of_lt hj]
    | succ g =>
      have hg' : g < (packBytes k (b.drop 8)).length := by simpa using hg
      calc (packBytes k (b.drop 8))[g].getMsbD j = (b.drop 8).getD (8 * g + j) false := ih hg'
        _ = b.getD (8 * (g + 1) + j) false := by
          simp only [List.getD_eq_getElem?_getD, List.getElem?_drop]
          congr 2
          omega

theorem getLsbD_payload_data {b : Bits} {g j : Nat} (hg : g < dataBytes b.length) (hj : j < 8) :
    ((payload b)[g]'(by rw [length_payload]; omega)).getLsbD (7 - j) = b.getD (8 * g + j) false := by
  have hdata : g < (packBytes (dataBytes b.length) b).length := by rwa [length_packBytes]
  have hbyte : (payload b)[g]'(by rw [length_payload]; omega) = (packBytes (dataBytes b.length) b)[g] :=
    List.getElem_append_left hdata
  rw [hbyte, ← getMsbD_getElem_packBytes hdata hj, BitVec.getMsbD]
  simp [hj]

theorem getElem_payload_meta (b : Bits) :
    (payload b)[dataBytes b.length]'(by simp) = BitVec.ofNat 8 (metaByte b.length) := by
  simp [payload]

/-- The number of data bytes is the least one with room for the bits. -/
theorem dataBytes_eq {t k : Nat} (least : 8 * k < t + 8) (room : t ≤ 8 * k) : dataBytes t = k := by
  unfold dataBytes
  omega

/-! ## PACK's rule, check by check (R170, R205) -/

theorem exec_pack_of_raise {s : State} {k : ErrKind} {info : Word} (h : packBody s = .error (.raise k info)) :
    exec .pack s = .next (Failed s k info) := by
  rw [exec_eq, body, h, complete_raise]
  rfl

theorem packBody_outOfRange {s : State} (h : s.bufBytes < s.argSrc + s.argLen) :
    packBody s = .error (.raise .rangeError (infoRangeError 0)) :=
  if_pos (Nat.not_le.2 h)

/-- PACK's scan raises UnknownSymbol at the first symbol with no entry: every other end of the scan
contradicts what BUF holds at i or before it. -/
theorem packSymbols_unknown {s : State} {n a i k : Nat} {x : Byte} (hi : i < n)
    (known : ∀ j, j < i → ∃ y, Memory.read s.buf (a + j) = some y ∧ s.hasEntry y = true)
    (hx : Memory.read s.buf (a + i) = some x) (hnew : s.hasEntry x = false) :
    packSymbols s n a k = .error (.raise .unknownSymbol (infoUnknownSymbol x (k + i))) := by
  cases h : packSymbols s n a k with
  | ok xs =>
    obtain ⟨hlen, hall⟩ := packSymbols_ok.1 h
    have hat := hall i (by omega)
    simp_all
  | error e =>
    obtain ⟨j, -, before, stop⟩ := packSymbols_error h
    rcases Nat.lt_trichotomy j i with hj | rfl | hj
    · obtain ⟨y, hy, hentry⟩ := known j hj
      simp_all
    · simp_all
    · obtain ⟨y, hy, hentry⟩ := before i hj
      simp_all

section
variable {s : State} (source : s.argSrc + s.argLen ≤ s.bufBytes)
include source

theorem packBody_emptyDictionary (count : s.dictCount = 0#32) :
    packBody s = .error (.raise .invalidInput (infoInvalidInput 3#8 0#8 0#8)) := by
  rw [packBody, if_neg (Decidable.not_not.2 source), if_pos count]

variable (count : s.dictCount ≠ 0#32)
include count

theorem packBody_of_scan_error {e : Stop} (scan : packSymbols s s.argLen s.argSrc 0 = .error e) :
    packBody s = .error e := by
  simp only [packBody, if_neg (Decidable.not_not.2 source), if_neg count, scan]

theorem packBody_of_scan_ok {xs : List Byte} (scan : packSymbols s s.argLen s.argSrc 0 = .ok xs) :
    packBody s = packStore s s.argSrc s.argLen s.argDst (codeString s xs) := by
  simp only [packBody, if_neg (Decidable.not_not.2 source), if_neg count, scan]

end

section
variable {s : State} {src n dst : Nat} {b : Bits}

theorem packStore_outOfRange (h : s.bufBytes < dst + (dataBytes b.length + 1)) :
    packStore s src n dst b = .error (.raise .rangeError (infoRangeError 1)) :=
  if_pos (Nat.not_le.2 h)

variable (range : s.InRange dst (dataBytes b.length + 1))
include range

theorem packStore_overlap (h : Overlap src n dst (dataBytes b.length + 1)) :
    packStore s src n dst b = .error (.raise .rangeError (infoRangeError 2)) := by
  rw [packStore, if_neg (Decidable.not_not.2 range), if_pos h]

theorem packStore_apart (h : ¬ Overlap src n dst (dataBytes b.length + 1)) :
    packStore s src n dst b = .ok (packStaged s dst b) := by
  rw [packStore, if_neg (Decidable.not_not.2 range), if_neg h]

end

/-! ## The detail word -/

theorem State.bufBytes_le (s : State) : s.bufBytes ≤ 2 ^ 16 :=
  Nat.pow_le_pow_right (by decide) (by have := s.bufLog.isLt; omega)

/-- The detail word of UnknownSymbol is its fields put in their places (R202). -/
theorem infoUnknownSymbol_eq_or (x : Byte) {i : Nat} (hi : i < 2 ^ 24) :
    infoUnknownSymbol x i = (x.setWidth 32 <<< 24) ||| BitVec.ofNat 32 i := by
  have hindex : (BitVec.ofNat 32 i).toNat = i := by
    rw [BitVec.toNat_ofNat]
    omega
  apply BitVec.eq_of_toNat_eq
  rw [BitVec.or_comm, toNat_or_byte_shiftLeft (by decide) (by omega), hindex, infoUnknownSymbol,
    BitVec.toNat_ofNat, Nat.mod_eq_of_lt hi]
  omega

/-! ## Settled -/

/-- Settles O29: the payload is stored at ARG2, and its bytes hold the bits of the codes. -/
theorem packStoresPayload : Obligations.PackStoresPayload := by
  intro s xs k m hlen source count hxs least room hm range apart
  have hk : dataBytes (codeString s xs).length = k := dataBytes_eq least room
  have hmeta : metaByte (codeString s xs).length = m := by
    rw [metaByte, hk, hm]
    rfl
  have hbytes : (payload (codeString s xs)).length = k + 1 := by rw [length_payload, hk]
  have hbody : packBody s = .ok (packStaged s s.argDst (codeString s xs)) := by
    rw [packBody_of_scan_ok source count (packSymbols_ok.2 ⟨hlen, hxs⟩)]
    refine packStore_apart (by rwa [hk]) ?_
    rw [hk]
    exact fun ⟨h0, _, h⟩ => apart ⟨h0, h⟩
  have hexec : exec .pack s = .next (packStaged s s.argDst (codeString s xs)).commit := by
    rw [exec_eq, body, hbody, complete_ok]
  refine ⟨_, hexec, fun g hg => ?_, ?_, fun a => ?_, ?_, rfl, ?_, rfl⟩
  · exact ⟨_, Memory.read_writeList_inside (by omega), fun j => getLsbD_payload_data (by rwa [hk])⟩
  · subst hk hmeta
    rw [← getElem_payload_meta]
    exact Memory.read_writeList_inside (by omega)
  · rw [← hbytes]
    exact Memory.read_writeList_outside
  · exact congrArg (fun n => BitVec.ofNat 32 (n + 1)) hk
  · exact congrArg (BitVec.ofNat 32) hmeta

/-- Settles O28: each check is reached when those before it let the operands through. -/
theorem packRefusesBadOperands : Obligations.PackRefusesBadOperands := by
  refine fun s => ⟨fun h => ?_, fun source count => ?_, fun source count i x hi known hx hnew => ?_,
    fun source count xs hlen hxs => ?_⟩
  · exact exec_pack_of_raise (packBody_outOfRange h)
  · exact exec_pack_of_raise (packBody_emptyDictionary source count)
  · have hscan : packSymbols s s.argLen s.argSrc 0 =
        .error (.raise .unknownSymbol (infoUnknownSymbol x (0 + i))) := by
      refine packSymbols_unknown hi (fun j hj => ?_) hx (by simp [State.hasEntry, hnew])
      obtain ⟨y, hy, hentry⟩ := known j hj
      exact ⟨y, hy, bne_iff_ne.2 hentry⟩
    have hindex : i < 2 ^ 24 := by
      have := s.bufBytes_le
      omega
    rw [exec_pack_of_raise (packBody_of_scan_error source count hscan), Nat.zero_add,
      infoUnknownSymbol_eq_or x hindex]
  · have hscan : packSymbols s s.argLen s.argSrc 0 = .ok xs :=
      packSymbols_ok.2 ⟨hlen, fun i hi => ⟨(hxs i hi).1, bne_iff_ne.2 (hxs i hi).2⟩⟩
    have hstore := packBody_of_scan_ok source count hscan
    exact ⟨fun h => exec_pack_of_raise (hstore.trans (packStore_outOfRange h)),
      fun range h0 hsrc hdst => exec_pack_of_raise
        (hstore.trans (packStore_overlap range ⟨h0, Nat.succ_pos _, hsrc, hdst⟩))⟩

end Sys2Proof.Machine
end

section
/-! PROOFS. The bit unpacker (R185 to R191): the exact match, unique because no code begins another, and the
bit-by-bit walk that finds the same, the loop over the codes of some symbols, UNPACK's rule check by check, and its errors
and its result. -/

namespace Sys2Proof.Machine

/-! ## The exact match (R188) -/

/-- Two codes that stand at the front of the same bits are the same symbol's (R36 item 3). -/
theorem DictInv.eq_of_code_prefix {s : State} (h : DictInv s) {x y : Byte} {rest : Bits}
    (hx : s.hasEntry x = true) (hy : s.hasEntry y = true) (hxr : s.code x <+: rest)
    (hyr : s.code y <+: rest) : x = y := by
  have hx := (h.hasEntry_iff x).1 hx
  have hy := (h.hasEntry_iff y).1 hy
  obtain ⟨-, -, -, -, free, -⟩ := h
  rcases List.prefix_or_prefix_of_prefix hxr hyr with hp | hp
  · exact free x hx y hy hp
  · exact (free y hy x hx hp).symm

/-- The match is the one symbol whose code stands at the front. -/
theorem DictInv.matchCode_eq_some {s : State} (h : DictInv s) {x : Byte} {rest : Bits} :
    matchCode s rest = some x ↔ s.hasEntry x = true ∧ s.code x <+: rest := by
  refine ⟨matchCode_some, fun ⟨hx, hp⟩ => ?_⟩
  cases hm : matchCode s rest with
  | none => exact absurd hp (matchCode_none.1 hm x hx)
  | some y =>
    obtain ⟨hy, hyp⟩ := matchCode_some hm
    rw [h.eq_of_code_prefix hx hy hp hyp]

/-! ## The bit-by-bit walk (R189) -/

/-- The symbol found has q as its whole code. -/
theorem codeEquals_some {s : State} {q : Bits} {x : Byte} (h : codeEquals s q = some x) :
    s.hasEntry x = true ∧ s.code x = q := by
  simpa using List.find?_some h

theorem codeEquals_none {s : State} {q : Bits} :
    codeEquals s q = none ↔ ∀ x, s.hasEntry x = true → s.code x ≠ q := by
  simp [codeEquals, List.find?_eq_none, mem_symbols]

/-- Some code goes on past q. -/
theorem codeExtends_iff {s : State} {q : Bits} :
    codeExtends s q = true ↔ ∃ x, s.hasEntry x = true ∧ q <+: s.code x ∧ q.length < (s.code x).length := by
  simp only [codeExtends, List.any_eq_true, mem_symbols, true_and, Bool.and_eq_true, decide_eq_true_eq,
    List.isPrefixOf_iff_prefix]

/-- At the end of a code the match is its symbol. -/
theorem DictInv.matchCode_of_codeEquals {s : State} (h : DictInv s) {q : Bits} {x : Byte}
    (hq : codeEquals s q = some x) (rest : Bits) : matchCode s (q ++ rest) = some x := by
  obtain ⟨hx, rfl⟩ := codeEquals_some hq
  exact h.matchCode_eq_some.2 ⟨hx, List.prefix_append _ rest⟩

/-- The walk that has come to q without passing the end of a code finds what matches q and the bits still to
come: where no code ends at q, a code that matches goes on past q. -/
theorem prefixWalk_eq_matchCode {s : State} (h : DictInv s) (q rest : Bits)
    (passed : ∀ x, s.hasEntry x = true → s.code x <+: q → s.code x = q) :
    prefixWalk s q rest = matchCode s (q ++ rest) := by
  induction q, rest using prefixWalk.induct s with
  | case1 q rest x hq =>
    unfold prefixWalk
    rw [h.matchCode_of_codeEquals hq]
    simp only [hq]
  | case2 q hq hext =>
    have hnone : matchCode s q = none :=
      matchCode_none.2 fun x hx hp => codeEquals_none.1 hq x hx (passed x hx hp)
    unfold prefixWalk
    simp only [hq, hext, if_true, List.append_nil, hnone]
  | case3 q hq hext b bs ih =>
    have step : ∀ x, s.hasEntry x = true → s.code x <+: q ++ [b] → s.code x = q ++ [b] := by
      intro x hx hp
      rcases List.prefix_concat_iff.1 hp with heq | hp
      · exact heq
      · exact absurd (passed x hx hp) (codeEquals_none.1 hq x hx)
    unfold prefixWalk
    simp only [hq, hext, if_true, ih step, List.append_assoc, List.singleton_append]
  | case4 q rest hq hext =>
    have hnone : matchCode s (q ++ rest) = none := by
      refine matchCode_none.2 fun x hx hp => ?_
      have hne := codeEquals_none.1 hq x hx
      rcases List.prefix_or_prefix_of_prefix hp (List.prefix_append q rest) with hshort | hlong
      · exact hne (passed x hx hshort)
      · refine hext (codeExtends_iff.2 ⟨x, hx, hlong, ?_⟩)
        exact Nat.lt_of_le_of_ne hlong.length_le fun hlen => hne (hlong.eq_of_length hlen).symm
    unfold prefixWalk
    simp only [hq, hext, hnone, Bool.false_eq_true, if_false]

/-! ## UNPACK's loop on the codes of some symbols (R185) -/

@[simp] theorem decodeBits_nil (s : State) (fuel p : Nat) : decodeBits s fuel [] p = .ok [] := by
  cases fuel <;> rfl

/-- The loop stops at once where no code stands. -/
theorem decodeBits_unmatched {s : State} {rest : Bits} (hne : rest ≠ []) (hm : matchCode s rest = none)
    (fuel p : Nat) : decodeBits s fuel rest p = .error p := by
  obtain ⟨b, bs, rfl⟩ := List.exists_cons_of_ne_nil hne
  cases fuel with
  | zero => rfl
  | succ fuel => rw [decodeBits, hm]

/-- One round of the loop takes the code that matches. -/
theorem decodeBits_matched {s : State} {rest : Bits} {x : Byte}
    (hm : matchCode s (s.code x ++ rest) = some x) (fuel p : Nat) :
    decodeBits s (fuel + 1) (s.code x ++ rest) p =
      (decodeBits s fuel rest (p + (s.code x).length)).map (x :: ·) := by
  obtain ⟨hx, -⟩ := matchCode_some hm
  obtain ⟨b, bs, hbits⟩ :=
    List.exists_cons_of_ne_nil (List.append_ne_nil_of_left_ne_nil (code_ne_nil hx) rest)
  rw [hbits, decodeBits, ← hbits, hm]
  simp only [List.drop_left]
  cases decodeBits s fuel rest (p + (s.code x).length) <;> rfl

/-- No code is empty, so there are at least as many bits as symbols (R36 item 4). -/
theorem length_le_length_codes {s : State} {xs : List Byte} (entries : ∀ x ∈ xs, s.hasEntry x = true) :
    xs.length ≤ (xs.flatMap s.code).length := by
  induction xs with
  | nil => exact Nat.le_refl 0
  | cons x xs ih =>
    obtain ⟨hx, hxs⟩ := List.forall_mem_cons.1 entries
    have hpos := List.length_pos_iff.2 (code_ne_nil hx)
    have := ih hxs
    rw [List.flatMap_cons, List.length_append, List.length_cons]
    omega

section
variable {s : State} (h : DictInv s) {xs : List Byte} (entries : ∀ x ∈ xs, s.hasEntry x = true)
include h entries

/-- The loop takes the codes of symbols with entries one after the other, a round each. -/
theorem decodeBits_codes_append (fuel : Nat) (rest : Bits) (p : Nat) :
    decodeBits s (xs.length + fuel) (xs.flatMap s.code ++ rest) p =
      (decodeBits s fuel rest (p + (xs.flatMap s.code).length)).map (xs ++ ·) := by
  induction xs generalizing p with
  | nil => cases hd : decodeBits s fuel rest p <;> simp [hd, Except.map]
  | cons x xs ih =>
    obtain ⟨hx, hxs⟩ := List.forall_mem_cons.1 entries
    have hm : matchCode s (s.code x ++ (xs.flatMap s.code ++ rest)) = some x :=
      h.matchCode_eq_some.2 ⟨hx, List.prefix_append _ _⟩
    rw [List.flatMap_cons, List.append_assoc, List.length_cons, Nat.add_right_comm, decodeBits_matched hm,
      ih hxs, List.length_append, ← Nat.add_assoc]
    cases decodeBits s fuel rest (p + (s.code x).length + (xs.flatMap s.code).length) <;> rfl

/-- As many rounds as there are bits are enough to take every code. -/
theorem decodeAll_codes_append (rest : Bits) : ∃ fuel, decodeAll s (xs.flatMap s.code ++ rest) =
    (decodeBits s fuel rest (xs.flatMap s.code).length).map (xs ++ ·) := by
  have hle := length_le_length_codes entries
  obtain ⟨fuel, hfuel⟩ := Nat.exists_eq_add_of_le
    (show xs.length ≤ (xs.flatMap s.code ++ rest).length by rw [List.length_append]; omega)
  refine ⟨fuel, ?_⟩
  rw [decodeAll, hfuel, decodeBits_codes_append h entries, Nat.zero_add]

/-- The codes of symbols with entries decode to the symbols. -/
theorem decodeAll_codes : decodeAll s (xs.flatMap s.code) = .ok xs := by
  obtain ⟨fuel, hdecode⟩ := decodeAll_codes_append h entries []
  rw [List.append_nil, decodeBits_nil] at hdecode
  rw [hdecode]
  simp [Except.map]

/-- Bits where no code stands stop the loop at their position. -/
theorem decodeAll_codes_unmatched {rest : Bits} (hne : rest ≠ []) (hm : matchCode s rest = none) :
    decodeAll s (xs.flatMap s.code ++ rest) = .error (xs.flatMap s.code).length := by
  obtain ⟨fuel, hdecode⟩ := decodeAll_codes_append h entries rest
  rw [hdecode, decodeBits_unmatched hne hm]
  rfl

end

/-! ## The payload's bits (R170, R187) -/

/-- The meaningful bits are the first 8·(k − 1) + M bits of the k data bytes. -/
theorem meaningfulBits_eq_take (data : List Byte) (m : Nat) :
    meaningfulBits data m = (data.flatMap bitsOf).take (8 * (data.length - 1) + m) := by
  induction data with
  | nil => simp [meaningfulBits]
  | cons d data ih =>
    cases data with
    | nil => simp [meaningfulBits]
    | cons e ds =>
      have hcount : 8 * ((d :: e :: ds).length - 1) + m =
          (bitsOf d).length + (8 * ((e :: ds).length - 1) + m) := by
        simp only [List.length_cons, length_bitsOf]
        omega
      rw [meaningfulBits, ih, List.flatMap_cons (x := d), hcount, List.take_length_add_append]

/-- Eight bits a byte. -/
theorem length_flatMap_bitsOf_byte (data : List Byte) : (data.flatMap bitsOf).length = 8 * data.length := by
  induction data with
  | nil => rfl
  | cons d data ih =>
    rw [List.flatMap_cons, List.length_append, ih, length_bitsOf, List.length_cons]
    omega

/-- Bytes packed from a bit string hold it, and zeros after it. -/
theorem flatMap_bitsOf_packBytes {k : Nat} {b : Bits} (room : b.length ≤ 8 * k) :
    (packBytes k b).flatMap bitsOf = b ++ zeros (8 * k - b.length) := by
  induction k generalizing b with
  | zero => simp [packBytes, zeros, List.length_eq_zero_iff.1 (Nat.le_zero.1 room)]
  | succ k ih =>
    rw [packBytes, List.flatMap_cons, ih (by rw [List.length_drop]; omega),
      bitsOf_alignLeft _ (List.length_take_le 8 b)]
    by_cases hlong : 8 ≤ b.length
    · have hfull : (b.take 8).length = 8 := List.length_take_of_le hlong
      have hleft : 8 * k - (b.drop 8).length = 8 * (k + 1) - b.length := by
        rw [List.length_drop]
        omega
      rw [hfull, hleft, Nat.sub_self, zeros, List.replicate_zero, List.append_nil, ← List.append_assoc,
        List.take_append_drop]
    · have hfill : 8 * (k + 1) - b.length = (8 - b.length) + 8 * k := by omega
      rw [List.take_of_length_le (by omega), List.drop_of_length_le (by omega), hfill]
      simp [zeros]

/-- M fits the metadata byte (R171). -/
theorem toNat_metaByte (t : Nat) : (BitVec.ofNat 8 (metaByte t)).toNat = metaByte t := by
  have := metaByte_spec t
  rw [BitVec.toNat_ofNat]
  omega

/-- The meaningful bits of a payload that PACK made are the bits it packed (R171, R187). -/
theorem take_flatMap_bitsOf_packBytes (b : Bits) :
    ((packBytes (dataBytes b.length) b).flatMap bitsOf).take (8 * ((packBytes (dataBytes b.length) b).length - 1)
      + (BitVec.ofNat 8 (metaByte b.length)).toNat) = b := by
  have hmeta := metaByte_spec b.length
  have hcount : 8 * (dataBytes b.length - 1) + metaByte b.length = b.length := by omega
  have room : b.length ≤ 8 * dataBytes b.length := by omega
  rw [length_packBytes, toNat_metaByte, hcount, flatMap_bitsOf_packBytes room, List.take_left]

/-! ## UNPACK's rule, check by check (R185, R205) -/

/-- A command raises the error of its rule. -/
theorem exec_of_raise {i : Instr} {s : State} {k : ErrKind} {info : Word}
    (h : body i s = .error (.raise k info)) : exec i s = .next (Failed s k info) := by
  rw [exec_eq, h, complete_raise]
  rfl

theorem unpackBody_outOfRange {s : State} (h : s.bufBytes < s.argSrc + s.argLen) :
    unpackBody s = .error (.raise .rangeError (infoRangeError 0)) :=
  if_pos (Nat.not_le.2 h)

section
variable {s : State} (source : s.argSrc + s.argLen ≤ s.bufBytes)
include source

theorem unpackBody_emptyDictionary (count : s.dictCount = 0#32) :
    unpackBody s = .error (.raise .invalidInput (infoInvalidInput 3#8 0#8 0#8)) := by
  rw [unpackBody, if_neg (Decidable.not_not.2 source), if_pos count]

variable (count : s.dictCount ≠ 0#32)
include count

theorem unpackBody_noMetadata (len : s.argLen = 0) :
    unpackBody s = .error (.raise .decodeError (infoDecodeError 2#2 0)) := by
  rw [unpackBody, if_neg (Decidable.not_not.2 source), if_neg count, if_pos len]

variable (len : s.argLen ≠ 0) {m : Byte} (metadata : Memory.read s.buf (s.argSrc + (s.argLen - 1)) = some m)
include len metadata

theorem unpackBody_illegalMetadata (h : ¬ MetaOK (s.argLen - 1) m.toNat) :
    unpackBody s = .error (.raise .decodeError (infoDecodeError 1#2 m.toNat)) := by
  simp only [unpackBody, if_neg (Decidable.not_not.2 source), if_neg count, if_neg len, bufRead_ok.2 metadata,
    if_pos h]

theorem unpackBody_of_payload (h : MetaOK (s.argLen - 1) m.toNat) {data : List Byte}
    (read : s.bufReadList s.argSrc (s.argLen - 1) = .ok data) :
    unpackBody s = unpackDecode s data m.toNat := by
  simp only [unpackBody, if_neg (Decidable.not_not.2 source), if_neg count, if_neg len, bufRead_ok.2 metadata,
    if_neg (Decidable.not_not.2 h), read]

end

/-- UNPACK gets as far as the decode, with these data bytes and this metadata byte (R185, R186). -/
structure State.ReadsPayload (s : State) (data : List Byte) (m : Byte) : Prop where
  source : s.argSrc + s.argLen ≤ s.bufBytes
  count : s.dictCount ≠ 0#32
  length : data.length + 1 = s.argLen
  metaOK : (data = [] ∧ m = 0#8) ∨ (data ≠ [] ∧ 1 ≤ m.toNat ∧ m.toNat ≤ 8)
  written : ∀ i (h : i < data.length), Memory.read s.buf (s.argSrc + i) = some data[i]
  metadata : Memory.read s.buf (s.argSrc + data.length) = some m

/-- The legal metadata bytes of R186, for given data bytes. -/
theorem metaOK_of_data {data : List Byte} {m : Byte}
    (h : (data = [] ∧ m = 0#8) ∨ (data ≠ [] ∧ 1 ≤ m.toNat ∧ m.toNat ≤ 8)) :
    MetaOK data.length m.toNat := by
  rcases h with ⟨rfl, rfl⟩ | ⟨hne, hm⟩
  · exact .inl ⟨rfl, rfl⟩
  · exact .inr ⟨List.length_pos_iff.2 hne, hm⟩

theorem State.ReadsPayload.unpackBody_eq {s : State} {data : List Byte} {m : Byte}
    (h : s.ReadsPayload data m) : unpackBody s = unpackDecode s data m.toNat := by
  obtain ⟨source, count, hlen, hmeta, written, metadata⟩ := h
  have hk : s.argLen - 1 = data.length := by omega
  refine unpackBody_of_payload source count (by omega) (by rwa [hk]) ?_ (bufReadList_ok.2 ⟨hk.symm, written⟩)
  rw [hk]
  exact metaOK_of_data hmeta

section
variable {s : State} (h : DictInv s) {data xs : List Byte} {m : Nat}
  (entries : ∀ x ∈ xs, s.hasEntry x = true)
include h entries

theorem unpackDecode_codes
    (bits : xs.flatMap s.code = (data.flatMap bitsOf).take (8 * (data.length - 1) + m)) :
    unpackDecode s data m =
      unpackStore s s.argSrc s.argLen s.argDst (xs.flatMap s.code).length m xs := by
  simp only [unpackDecode, meaningfulBits_eq_take, ← bits, decodeAll_codes h entries]

theorem unpackDecode_unmatched {rest : Bits} (hne : rest ≠ []) (hm : matchCode s rest = none)
    (bits : xs.flatMap s.code ++ rest = (data.flatMap bitsOf).take (8 * (data.length - 1) + m)) :
    unpackDecode s data m = .error (.raise .decodeError (infoDecodeError 0#2 (xs.flatMap s.code).length)) := by
  simp only [unpackDecode, meaningfulBits_eq_take, ← bits, decodeAll_codes_unmatched h entries hne hm]

end

section
variable {s : State} {src len dst t m : Nat} {xs : List Byte}

theorem unpackStore_outOfRange (h : s.bufBytes < dst + xs.length) :
    unpackStore s src len dst t m xs = .error (.raise .rangeError (infoRangeError 1)) :=
  if_pos (Nat.not_le.2 h)

variable (range : s.InRange dst xs.length)
include range

theorem unpackStore_overlap (h : Overlap src len dst xs.length) :
    unpackStore s src len dst t m xs = .error (.raise .rangeError (infoRangeError 2)) := by
  rw [unpackStore, if_neg (Decidable.not_not.2 range), if_pos h]

theorem unpackStore_apart (h : ¬ Overlap src len dst xs.length) :
    unpackStore s src len dst t m xs = .ok (unpackStaged s dst t m xs) := by
  rw [unpackStore, if_neg (Decidable.not_not.2 range), if_neg h]

end

/-! ## The detail word -/

/-- The detail word of an illegal metadata byte: kind 1 and the byte (R202). -/
theorem infoDecodeError_meta (m : Byte) :
    infoDecodeError 1#2 m.toNat = 0x40000000#32 ||| m.setWidth 32 := by
  have hm : m.toNat < 2 ^ 30 := by omega
  apply BitVec.eq_of_toNat_eq
  rw [infoDecodeError, Nat.mod_eq_of_lt hm, BitVec.toNat_or, BitVec.toNat_ofNat,
    BitVec.toNat_setWidth_of_le (by decide), show (0x40000000#32).toNat = 2 ^ 30 * 1 from rfl,
    ← Nat.two_pow_add_eq_or_of_lt hm]
  exact Nat.mod_eq_of_lt (by omega)

/-- The detail word of a position: kind 0, so the position itself (R202). -/
theorem infoDecodeError_position {p : Nat} (h : p < 2 ^ 30) : infoDecodeError 0#2 p = BitVec.ofNat 32 p := by
  rw [infoDecodeError, Nat.mod_eq_of_lt h]
  simp

/-! ## The payload of a PACK (R191) -/

theorem code_congr {s t : State} (same : SameDictionary s t) : t.code = s.code := by
  obtain ⟨hlen, hbits, -⟩ := same
  unfold State.code
  rw [hlen, hbits]

theorem hasEntry_congr {s t : State} (same : SameDictionary s t) : t.hasEntry = s.hasEntry := by
  obtain ⟨hlen, -⟩ := same
  unfold State.hasEntry
  rw [hlen]

/-- What a PACK stored is a payload that UNPACK reads, in a state that kept the bytes and the dictionary. -/
theorem readsPayload_of_packed {s u : State} {b : Bits} (log : u.bufLog = s.bufLog) (same : SameDictionary s u)
    (buf : u.buf = (packStaged s s.argDst b).buf) (src : u.argSrc = s.argDst)
    (len : u.argLen = (packStaged s s.argDst b).res0.toNat) (range : s.InRange s.argDst (dataBytes b.length + 1))
    (count : s.dictCount ≠ 0#32) :
    u.ReadsPayload (packBytes (dataBytes b.length) b) (BitVec.ofNat 8 (metaByte b.length)) := by
  have hbuf : u.bufBytes = s.bufBytes := congrArg (fun k : Fin 7 => 2 ^ (10 + k.val)) log
  have hlen : u.argLen = dataBytes b.length + 1 := by
    have := s.bufBytes_le
    rw [len, packStaged, State.setResults_res0, BitVec.toNat_ofNat]
    omega
  have hread : ∀ i (h : i < (payload b).length), Memory.read u.buf (u.argSrc + i) = some (payload b)[i] := by
    intro i hi
    rw [buf, src]
    exact Memory.read_writeList_inside hi
  refine ⟨by rwa [hbuf, src, hlen], ?_, by rw [length_packBytes, hlen], ?_, fun i hi => ?_, ?_⟩
  · obtain ⟨-, -, -, hcount⟩ := same
    rwa [hcount]
  · rcases metaByte_spec b.length with ⟨-, hk, hm⟩ | ⟨-, hk, hm, hm8, -⟩
    · rw [hk, hm]
      exact .inl ⟨rfl, rfl⟩
    · rw [toNat_metaByte]
      refine .inr ⟨List.length_pos_iff.1 ?_, hm, hm8⟩
      rwa [length_packBytes]
  · have hbyte : (payload b)[i]'(by simp at hi ⊢; omega) = (packBytes (dataBytes b.length) b)[i] :=
      List.getElem_append_left hi
    rw [← hbyte]
    exact hread i _
  · rw [length_packBytes, ← getElem_payload_meta]
    exact hread _ _

/-! ## Settled -/

/-- Settles O35: the walk from the root has passed no code. -/
theorem prefixWalkEqualsMatch : Obligations.PrefixWalkEqualsMatch :=
  fun _ rest h => prefixWalk_eq_matchCode h [] rest fun _ _ hp => List.prefix_nil.1 hp

/-- Settles O32: the codes of symbols decode to the symbols, and the store checks their destination. -/
theorem unpackStoresDecodedSymbols : Obligations.UnpackStoresDecodedSymbols := by
  intro s data xs m hdict source count hlen hmeta written metadata entries bits
  have payload : s.ReadsPayload data m := ⟨source, count, hlen, hmeta, written, metadata⟩
  have hbody := payload.unpackBody_eq.trans (unpackDecode_codes hdict entries bits)
  have hpos : 0 < s.argLen := by omega
  refine ⟨fun h => ?_, fun range ⟨h0, hsrc, hdst⟩ => ?_, fun range apart => ?_⟩
  · exact exec_of_raise (hbody.trans (unpackStore_outOfRange h))
  · exact exec_of_raise (hbody.trans (unpackStore_overlap range ⟨hpos, h0, hsrc, hdst⟩))
  · have hstore := hbody.trans (unpackStore_apart range fun ⟨_, h⟩ => apart h)
    refine ⟨_, by rw [exec_eq, body, hstore, complete_ok], fun i hi => ?_, fun a => ?_, rfl, rfl, ?_, rfl⟩
    · exact Memory.read_writeList_inside hi
    · exact Memory.read_writeList_outside
    · exact BitVec.ofNat_toNat 32 m

/-- Settles O33: the loop stops at the position after the last code, which fits the detail word. -/
theorem unpackReportsFirstUnmatchedBit : Obligations.UnpackReportsFirstUnmatchedBit := by
  intro s data xs m rest hdict source count hlen hne hm1 hm8 written metadata entries hrest unmatched bits
  have payload : s.ReadsPayload data m := ⟨source, count, hlen, .inr ⟨hne, hm1, hm8⟩, written, metadata⟩
  have hdecode := unpackDecode_unmatched hdict entries hrest (matchCode_none.2 unmatched) bits
  have hposition : (xs.flatMap s.code).length < 2 ^ 30 := by
    have hbuf := s.bufBytes_le
    have hbits : (xs.flatMap s.code ++ rest).length ≤ 8 * data.length := by
      rw [bits, ← length_flatMap_bitsOf_byte]
      exact List.length_take_le' _ _
    rw [List.length_append] at hbits
    omega
  rw [← infoDecodeError_position hposition]
  exact exec_of_raise (payload.unpackBody_eq.trans hdecode)

/-- Settles O31: each check is reached when those before it let the operands through. -/
theorem unpackRefusesBadOperands : Obligations.UnpackRefusesBadOperands := by
  refine fun s => ⟨fun h => ?_, fun source count => ?_, fun source count len => ?_,
    fun source count len m metadata illegal => ?_⟩
  · exact exec_of_raise (unpackBody_outOfRange h)
  · exact exec_of_raise (unpackBody_emptyDictionary source count)
  · exact exec_of_raise (unpackBody_noMetadata source count len)
  · have hmeta : ¬ MetaOK (s.argLen - 1) m.toNat := by
      rintro (⟨hk, hm⟩ | ⟨hk, hm⟩)
      · exact illegal (.inl ⟨by omega, BitVec.eq_of_toNat_eq hm⟩)
      · exact illegal (.inr ⟨by omega, hm⟩)
    rw [← infoDecodeError_meta]
    exact exec_of_raise (unpackBody_illegalMetadata source count len metadata hmeta)

/-- Settles O36: UNPACK reads back the bits that PACK packed, and they are the codes of its symbols. -/
theorem unpackInvertsPack : Obligations.UnpackInvertsPack := by
  intro s t u hdict _ hpack ht hbuf hlog hsame hsrc hlen
  rcases exec_next hpack with ⟨p, hp, rfl⟩ | ⟨k, info, -, rfl⟩
  · cases hp with
    | pack xs _ count scan range _ =>
      obtain ⟨hxs, hread⟩ := packSymbols_ok.1 scan
      have payload := readsPayload_of_packed hlog hsame hbuf hsrc hlen range count
      have hcodes : xs.flatMap u.code = codeString s xs := by rw [code_congr hsame, codeString]
      have bits := hcodes.trans (take_flatMap_bitsOf_packBytes (codeString s xs)).symm
      have entries : ∀ x ∈ xs, u.hasEntry x = true := by
        rw [hasEntry_congr hsame]
        intro x hx
        obtain ⟨i, hi, rfl⟩ := List.mem_iff_getElem.1 hx
        exact (hread i hi).2
      obtain ⟨hrange, hoverlap, hstore⟩ := unpackStoresDecodedSymbols u _ xs _ (dictInv_congr hdict hsame)
        payload.source payload.count payload.length payload.metaOK payload.written payload.metadata entries bits
      rw [← hxs]
      by_cases fits : u.argDst + xs.length ≤ u.bufBytes
      · by_cases overlap : 0 < xs.length ∧ u.argSrc < u.argDst + xs.length ∧ u.argDst < u.argSrc + u.argLen
        · exact ⟨_, hoverlap fits overlap, .inl ⟨⟨_, rfl⟩, .inr overlap⟩⟩
        · obtain ⟨v, hv, hstored, -, hres0, -, -, hframe⟩ := hstore fits overlap
          exact ⟨v, hv, .inr ⟨by rw [hframe], hres0, fun i hi => (hstored i hi).trans (hread i hi).1.symm⟩⟩
      · have tooLong := Nat.lt_of_not_le fits
        exact ⟨_, hrange tooLong, .inl ⟨⟨_, rfl⟩, .inl tooLong⟩⟩
  · simp at ht

end Sys2Proof.Machine
end

section
/-! PROOFS. Errors and the interrupt: a command raises only the errors of its row (R201), and IRQ is a
function of the words the host reads from STATUS and IRQ_EN (R24, R25, R208). -/

namespace Sys2Proof.Machine

/-! ## The error a command records -/

/-- Settles O10: a command that committed has recorded no error, so the one it recorded is the one it
raised. -/
theorem commandsRaiseOnlyTheirErrors : Obligations.CommandsRaiseOnlyTheirErrors := by
  intro i s t k h hs ht
  rcases exec_next h with ⟨u, hu, rfl⟩ | ⟨k', info, hk, rfl⟩
  · rw [State.commit_errCode, hu.errCode_eq_none hs] at ht
    cases ht
  · rw [State.raise_errCode] at ht
    cases ht
    exact hk

/-! ## The words behind IRQ -/

/-- STATUS reads DONE, ERR and REJ in bits 1 to 3 (R24). -/
theorem readReg_status_flags (s : State) :
    (s.readReg .status).getLsbD 1 = s.done ∧ (s.readReg .status).getLsbD 2 = s.err ∧
      (s.readReg .status).getLsbD 3 = s.rej :=
  ⟨getLsbD_statusWord s (by decide), getLsbD_statusWord s (by decide), getLsbD_statusWord s (by decide)⟩

/-- IRQ_EN reads DONE_IE and ERR_IE in bits 0 and 1 (R25). -/
theorem readReg_irqEn_enables (s : State) :
    (s.readReg .irqEn).getLsbD 0 = s.doneIE ∧ (s.readReg .irqEn).getLsbD 1 = s.errIE :=
  ⟨getLsbD_setWidth_word s.irqEn (by decide), getLsbD_setWidth_word s.irqEn (by decide)⟩

/-- Settles O41: the bits named are the flags and enables of which IRQ is made. -/
theorem irqFollowsStatusAndEnable : Obligations.IrqFollowsStatusAndEnable := by
  intro s
  obtain ⟨hdone, herr, hrej⟩ := readReg_status_flags s
  obtain ⟨hdoneIE, herrIE⟩ := readReg_irqEn_enables s
  rw [State.irq, hdone, herr, hrej, hdoneIE, herrIE]

end Sys2Proof.Machine
end

section
/-! PROOFS. What the host may do while BUSY = 1: which accesses are not invalid and which of them name a register
(R71, R75), which writes fault (R233), and which reads are exact and which are free (R234). -/

namespace Sys2Proof.Machine

/-! ## Valid accesses -/

/-- The accesses that R71 lists as valid, to a reserved offset or not: the converse of `target_invalid`. -/
theorem target_ne_invalid {s : State} {off : BitVec 17} {size : AccessSize}
    (h : (size = .word ∧ (off.toNat % 4 = 0 ∨ 0x10000 + s.bufBytes ≤ off.toNat)) ∨
      (size = .byte ∧ 0x10000 ≤ off.toNat)) : s.target off size ≠ .invalid := by
  rcases h with ⟨rfl, h4 | hpast⟩ | ⟨rfl, hbuf⟩
  · simp only [State.target, if_pos h4]
    repeat' split
    all_goals simp
  · have hres : s.target off .word = .reserved := target_reserved (.inr ⟨by decide, hpast⟩)
    simp [hres]
  · simp only [State.target, bufBase, if_neg (Nat.not_lt.2 hbuf)]
    split <;> simp

/-- Only a word access at its own offset reaches a register (R40, R71): the converse of `target_reg`. -/
theorem offset_of_target_reg {s : State} {off : BitVec 17} {size : AccessSize} {r : Reg}
    (h : s.target off size = .reg r) : size = .word ∧ off.toNat = r.offset := by
  cases size with
  | half => cases h
  | byte =>
    simp only [State.target] at h
    repeat' split at h
    all_goals cases h
  | word =>
    simp only [State.target] at h
    split at h
    · split at h
      · next h4 =>
        split at h
        · next hreg =>
          cases h
          exact ⟨rfl, offset_of_regAt h4 hreg⟩
        · cases h
      · cases h
    · repeat' split at h
      all_goals cases h

/-! ## Accesses while a command runs -/

section
variable {s : State} {off : BitVec 17} {size : AccessSize} (hbusy : s.busy = true)
  (valid : s.target off size ≠ .invalid)
include hbusy valid

/-- A valid write faults wherever it goes, a register of R233 aside. -/
theorem hostWrite_busy (v : Word) (readOnly : ∀ r, s.target off size = .reg r → r.writableWhileBusy = false) :
    hostWrite off size v s = .fault (.writeWhileBusy off) := by
  cases ht : s.target off size with
  | invalid => exact absurd ht valid
  | reg r => simp only [hostWrite, ht, hbusy, readOnly r ht, Bool.not_false, Bool.and_true, if_true]
  | reserved | bufByte a | bufWord a => simp only [hostWrite, ht, hbusy, if_true]

/-- A valid read answers with a free value wherever it goes, a register of the status group aside (R234). -/
theorem hostRead_busy (inexact : ∀ r, s.target off size = .reg r → r.readableWhileBusy = false) :
    hostRead off size s = .next (s.respondFree size) := by
  cases ht : s.target off size with
  | invalid => exact absurd ht valid
  | reg r => simp only [hostRead, ht, hbusy, inexact r ht, Bool.not_false, Bool.and_true, if_true]
  | reserved | bufByte a | bufWord a => simp only [hostRead, ht, hbusy, if_true]

end

/-! ## The registers of R233 and R234 -/

theorem writableWhileBusy_iff (r : Reg) : r.writableWhileBusy = true ↔ r = .status ∨ r = .cmd := by
  cases r <;> simp [Reg.writableWhileBusy]

theorem readableWhileBusy_iff (r : Reg) : r.readableWhileBusy = true ↔
    r = .id ∨ r = .params ∨ r = .status ∨ r = .irqEn ∨ r = .cmd ∨ r = .errCode ∨ r = .errInfo := by
  cases r <;> simp [Reg.readableWhileBusy]

/-- The registers of R233 lie at the offsets 0x08 and 0x10. -/
theorem writableWhileBusy_offset {off : BitVec 17} {r : Reg} (hoff : off.toNat = r.offset)
    (hr : r.writableWhileBusy = true) : off = 0x00008#17 ∨ off = 0x00010#17 := by
  rcases (writableWhileBusy_iff r).1 hr with rfl | rfl
  · exact .inl (BitVec.eq_of_toNat_eq hoff)
  · exact .inr (BitVec.eq_of_toNat_eq hoff)

/-- The status group of R234 lies at the aligned offsets up to 0x18. -/
theorem readableWhileBusy_offset {off : BitVec 17} {r : Reg} (hoff : off.toNat = r.offset)
    (hr : r.readableWhileBusy = true) :
    off = 0x00000#17 ∨ off = 0x00004#17 ∨ off = 0x00008#17 ∨ off = 0x0000C#17 ∨ off = 0x00010#17 ∨
      off = 0x00014#17 ∨ off = 0x00018#17 := by
  have hbus : off = r.busOffset := BitVec.eq_of_toNat_eq (hoff.trans (toNat_busOffset r).symm)
  subst hbus
  rcases (readableWhileBusy_iff r).1 hr with rfl | rfl | rfl | rfl | rfl | rfl | rfl <;> decide

/-! ## Settled -/

/-- Settles O46: a valid write goes through only to STATUS or CMD, and no byte access reaches either. -/
theorem writesWhileBusyFault : Obligations.WritesWhileBusyFault := by
  refine fun s off v hbusy => ⟨fun ⟨valid, hstatus, hcmd⟩ => ?_, fun hbuf => ?_⟩
  · refine hostWrite_busy hbusy (target_ne_invalid (.inl ⟨rfl, valid⟩)) v fun r ht => ?_
    obtain ⟨-, hoff⟩ := offset_of_target_reg ht
    refine Bool.eq_false_iff.2 fun hr => ?_
    exact (writableWhileBusy_offset hoff hr).elim hstatus hcmd
  · refine hostWrite_busy hbusy (target_ne_invalid (.inr ⟨rfl, hbuf⟩)) v fun r ht => ?_
    obtain ⟨hsize, -⟩ := offset_of_target_reg ht
    cases hsize

/-- Settles O47: a valid read is exact only in the status group, and no byte access reaches that. -/
theorem readsWhileBusyAreExactOrFree : Obligations.ReadsWhileBusyAreExactOrFree := by
  refine fun s hbusy => ⟨fun r hr => ?_, fun off valid hgroup => ?_, fun off hbuf => ?_⟩
  · exact hostRead_reg (toNat_busOffset r) (.inr ((readableWhileBusy_iff r).2 hr))
  · refine hostRead_busy hbusy (target_ne_invalid (.inl ⟨rfl, valid⟩)) fun r ht => ?_
    obtain ⟨-, hoff⟩ := offset_of_target_reg ht
    exact Bool.eq_false_iff.2 fun hr => hgroup (readableWhileBusy_offset hoff hr)
  · refine hostRead_busy hbusy (target_ne_invalid (.inr ⟨rfl, hbuf⟩)) fun r ht => ?_
    obtain ⟨hsize, -⟩ := offset_of_target_reg ht
    cases hsize

end Sys2Proof.Machine
end
